-- ==== Sys2Proof/Word.lean ====
section
/-! DEFINITION. The word types of the machine (00_scope.md R9, 30_encoding.md R81): every one an unsigned bit vector. -/

namespace Sys2Proof

/-- An 8-bit value: a general register, a timer, a byte of memory, the field `nn`. -/
abbrev Byte := BitVec 8

/-- A 16-bit value: an opcode, `I`, `pc`, a return address. -/
abbrev Word := BitVec 16

/-- A 4-bit field of an opcode: `op`, `x`, `y` or `n`; also a key index. -/
abbrev Nibble := BitVec 4

/-- The 12-bit address field `nnn`. -/
abbrev Addr12 := BitVec 12

end Sys2Proof
end

