-- ==== Sys2Proof/Syntax.lean ====
section
/-! DEFINITION. The instructions: one constructor per row of spec/opcode_table.json, in the order of 30_encoding.md R85. -/

namespace Sys2Proof

/-- The 35 instructions of 30_encoding.md R85. `nnn` is an address, `nn` an immediate byte, `n` a row count, `x` and `y`
select general registers (R81, R83). -/
inductive Instr where
  | cls                                  -- 00E0
  | ret                                  -- 00EE
  | sys (nnn : Addr12)                   -- 0nnn, other than 00E0 and 00EE
  | jp (nnn : Addr12)                    -- 1nnn
  | call (nnn : Addr12)                  -- 2nnn
  | seImm (x : Nibble) (nn : Byte)       -- 3xnn
  | sneImm (x : Nibble) (nn : Byte)      -- 4xnn
  | seReg (x y : Nibble)                 -- 5xy0
  | ldImm (x : Nibble) (nn : Byte)       -- 6xnn
  | addImm (x : Nibble) (nn : Byte)      -- 7xnn
  | ldReg (x y : Nibble)                 -- 8xy0
  | orReg (x y : Nibble)                 -- 8xy1
  | andReg (x y : Nibble)                -- 8xy2
  | xorReg (x y : Nibble)                -- 8xy3
  | addReg (x y : Nibble)                -- 8xy4
  | sub (x y : Nibble)                   -- 8xy5
  | shr (x y : Nibble)                   -- 8xy6, y decoded and not used (R83)
  | subn (x y : Nibble)                  -- 8xy7
  | shl (x y : Nibble)                   -- 8xyE, y decoded and not used (R83)
  | sneReg (x y : Nibble)                -- 9xy0
  | ldI (nnn : Addr12)                   -- Annn
  | jpV0 (nnn : Addr12)                  -- Bnnn
  | rnd (x : Nibble) (nn : Byte)         -- Cxnn
  | drw (x y n : Nibble)                 -- Dxyn
  | skp (x : Nibble)                     -- Ex9E
  | sknp (x : Nibble)                    -- ExA1
  | ldVxDt (x : Nibble)                  -- Fx07
  | ldVxK (x : Nibble)                   -- Fx0A
  | ldDtVx (x : Nibble)                  -- Fx15
  | ldStVx (x : Nibble)                  -- Fx18
  | addI (x : Nibble)                    -- Fx1E
  | ldF (x : Nibble)                     -- Fx29
  | ldB (x : Nibble)                     -- Fx33
  | ldMemVx (x : Nibble)                 -- Fx55
  | ldVxMem (x : Nibble)                 -- Fx65
deriving DecidableEq, Repr

end Sys2Proof
end

