-- ==== Sys2Proof/Decode.lean ====
section
/-! DEFINITION. Decoding and encoding of the 16-bit opcodes (30_encoding.md R80 to R87), and the opcode table of R85. -/

namespace Sys2Proof

/-- Why bytes are no instruction. -/
inductive DecodeError where
  /-- The opcode matches no row of R85 (R86): executing it raises IllegalInstruction. -/
  | illegal (opcode : Word)
  /-- Fewer than the two bytes every opcode has (R80). -/
  | truncated
deriving DecidableEq, Repr

/-- `op` = bits 15:12 (R81). -/
def fieldOp (w : Word) : Nibble := w.extractLsb' 12 4

/-- `x` = bits 11:8 (R81). -/
def fieldX (w : Word) : Nibble := w.extractLsb' 8 4

/-- `y` = bits 7:4 (R81). -/
def fieldY (w : Word) : Nibble := w.extractLsb' 4 4

/-- `n` = bits 3:0 (R81). -/
def fieldN (w : Word) : Nibble := w.extractLsb' 0 4

/-- `nn` = bits 7:0 (R81). -/
def fieldNN (w : Word) : Byte := w.extractLsb' 0 8

/-- `nnn` = bits 11:0 (R81). -/
def fieldNNN (w : Word) : Addr12 := w.extractLsb' 0 12

/-- The first byte of an opcode in memory: its high half (R61, R80). -/
def wordHi (w : Word) : Byte := w.extractLsb' 8 8

/-- The second byte of an opcode in memory: its low half (R61, R80). -/
def wordLo (w : Word) : Byte := w.extractLsb' 0 8

/-- The opcode of two consecutive bytes, the first the high half: `b0 ++ b1` (R61). -/
def wordOfBytes (b0 b1 : Byte) : Word := b0 ++ b1

/-- Group 8 of R84: the operation is chosen by `n`. -/
def decodeGroup8 (w : Word) : Except DecodeError Instr :=
  match fieldN w with
  | 0x0#4 => .ok (.ldReg (fieldX w) (fieldY w))
  | 0x1#4 => .ok (.orReg (fieldX w) (fieldY w))
  | 0x2#4 => .ok (.andReg (fieldX w) (fieldY w))
  | 0x3#4 => .ok (.xorReg (fieldX w) (fieldY w))
  | 0x4#4 => .ok (.addReg (fieldX w) (fieldY w))
  | 0x5#4 => .ok (.sub (fieldX w) (fieldY w))
  | 0x6#4 => .ok (.shr (fieldX w) (fieldY w))
  | 0x7#4 => .ok (.subn (fieldX w) (fieldY w))
  | 0xE#4 => .ok (.shl (fieldX w) (fieldY w))
  | _ => .error (.illegal w)

/-- Group E of R84: the operation is chosen by `nn`. -/
def decodeGroupE (w : Word) : Except DecodeError Instr :=
  match fieldNN w with
  | 0x9E#8 => .ok (.skp (fieldX w))
  | 0xA1#8 => .ok (.sknp (fieldX w))
  | _ => .error (.illegal w)

/-- Group F of R84: the operation is chosen by `nn`. -/
def decodeGroupF (w : Word) : Except DecodeError Instr :=
  match fieldNN w with
  | 0x07#8 => .ok (.ldVxDt (fieldX w))
  | 0x0A#8 => .ok (.ldVxK (fieldX w))
  | 0x15#8 => .ok (.ldDtVx (fieldX w))
  | 0x18#8 => .ok (.ldStVx (fieldX w))
  | 0x1E#8 => .ok (.addI (fieldX w))
  | 0x29#8 => .ok (.ldF (fieldX w))
  | 0x33#8 => .ok (.ldB (fieldX w))
  | 0x55#8 => .ok (.ldMemVx (fieldX w))
  | 0x65#8 => .ok (.ldVxMem (fieldX w))
  | _ => .error (.illegal w)

/-- The pure function `decode` of R84, from an opcode to an instruction or `Illegal`. -/
def decodeWord (w : Word) : Except DecodeError Instr :=
  match fieldOp w with
  | 0x0#4 => if w = 0x00E0#16 then .ok .cls else if w = 0x00EE#16 then .ok .ret else .ok (.sys (fieldNNN w))
  | 0x1#4 => .ok (.jp (fieldNNN w))
  | 0x2#4 => .ok (.call (fieldNNN w))
  | 0x3#4 => .ok (.seImm (fieldX w) (fieldNN w))
  | 0x4#4 => .ok (.sneImm (fieldX w) (fieldNN w))
  | 0x5#4 => if fieldN w = 0#4 then .ok (.seReg (fieldX w) (fieldY w)) else .error (.illegal w)
  | 0x6#4 => .ok (.ldImm (fieldX w) (fieldNN w))
  | 0x7#4 => .ok (.addImm (fieldX w) (fieldNN w))
  | 0x8#4 => decodeGroup8 w
  | 0x9#4 => if fieldN w = 0#4 then .ok (.sneReg (fieldX w) (fieldY w)) else .error (.illegal w)
  | 0xA#4 => .ok (.ldI (fieldNNN w))
  | 0xB#4 => .ok (.jpV0 (fieldNNN w))
  | 0xC#4 => .ok (.rnd (fieldX w) (fieldNN w))
  | 0xD#4 => .ok (.drw (fieldX w) (fieldY w) (fieldN w))
  | 0xE#4 => decodeGroupE w
  | _ => decodeGroupF w

/-- Decoding from bytes: exactly two are consumed, read big-endian (R80), and the rest is handed back. -/
def decodeBytes : List Byte → Except DecodeError (Instr × List Byte)
  | b0 :: b1 :: rest => (decodeWord (wordOfBytes b0 b1)).map (fun i => (i, rest))
  | _ => .error .truncated

/-- Format `A` of R82. -/
def encodeA (op : Nibble) (nnn : Addr12) : Word := op ++ nnn

/-- Formats `XNN` and `X` of R82. -/
def encodeXNN (op x : Nibble) (nn : Byte) : Word := op ++ x ++ nn

/-- Formats `XY` and `XYN` of R82. -/
def encodeXYN (op x y n : Nibble) : Word := op ++ x ++ y ++ n

/-- The opcode of an instruction, from the formats of R82 and the rows of R85. -/
def encode : Instr → Word
  | .cls => 0x00E0#16
  | .ret => 0x00EE#16
  | .sys nnn => encodeA 0x0#4 nnn
  | .jp nnn => encodeA 0x1#4 nnn
  | .call nnn => encodeA 0x2#4 nnn
  | .seImm x nn => encodeXNN 0x3#4 x nn
  | .sneImm x nn => encodeXNN 0x4#4 x nn
  | .seReg x y => encodeXYN 0x5#4 x y 0x0#4
  | .ldImm x nn => encodeXNN 0x6#4 x nn
  | .addImm x nn => encodeXNN 0x7#4 x nn
  | .ldReg x y => encodeXYN 0x8#4 x y 0x0#4
  | .orReg x y => encodeXYN 0x8#4 x y 0x1#4
  | .andReg x y => encodeXYN 0x8#4 x y 0x2#4
  | .xorReg x y => encodeXYN 0x8#4 x y 0x3#4
  | .addReg x y => encodeXYN 0x8#4 x y 0x4#4
  | .sub x y => encodeXYN 0x8#4 x y 0x5#4
  | .shr x y => encodeXYN 0x8#4 x y 0x6#4
  | .subn x y => encodeXYN 0x8#4 x y 0x7#4
  | .shl x y => encodeXYN 0x8#4 x y 0xE#4
  | .sneReg x y => encodeXYN 0x9#4 x y 0x0#4
  | .ldI nnn => encodeA 0xA#4 nnn
  | .jpV0 nnn => encodeA 0xB#4 nnn
  | .rnd x nn => encodeXNN 0xC#4 x nn
  | .drw x y n => encodeXYN 0xD#4 x y n
  | .skp x => encodeXNN 0xE#4 x 0x9E#8
  | .sknp x => encodeXNN 0xE#4 x 0xA1#8
  | .ldVxDt x => encodeXNN 0xF#4 x 0x07#8
  | .ldVxK x => encodeXNN 0xF#4 x 0x0A#8
  | .ldDtVx x => encodeXNN 0xF#4 x 0x15#8
  | .ldStVx x => encodeXNN 0xF#4 x 0x18#8
  | .addI x => encodeXNN 0xF#4 x 0x1E#8
  | .ldF x => encodeXNN 0xF#4 x 0x29#8
  | .ldB x => encodeXNN 0xF#4 x 0x33#8
  | .ldMemVx x => encodeXNN 0xF#4 x 0x55#8
  | .ldVxMem x => encodeXNN 0xF#4 x 0x65#8

/-- The opcode of an instruction as its two bytes in memory, big-endian (R61, R80). -/
def encodeBytes (i : Instr) : List Byte := [wordHi (encode i), wordLo (encode i)]

/-- The number an opcode-table row gives its bits, as an opcode: bit 0 of the table is bit 0 of the one 16-bit word. -/
def tableWord (nbits w : Nat) : Word := BitVec.ofNat 16 (w % 2 ^ nbits)

/-- The instruction this decoder reads from an instruction whose bits are `w`, numbered as the opcode table numbers them. -/
def decodeTableWord (nbits w : Nat) : Option Instr :=
  match decodeBytes [wordHi (tableWord nbits w), wordLo (tableWord nbits w)] with
  | .ok (i, _) => some i
  | .error _ => none

/-- A row of R85: a word `w` selects it when `w &&& mask = pat`. -/
structure OpcodeRow where
  mnemonic : String
  pat : Word
  mask : Word
deriving DecidableEq, Repr

/-- The row of R85 an instruction belongs to. -/
def opcodeRow : Instr → OpcodeRow
  | .cls => ⟨"CLS", 0x00E0, 0xFFFF⟩
  | .ret => ⟨"RET", 0x00EE, 0xFFFF⟩
  | .sys _ => ⟨"SYS", 0x0000, 0xF000⟩
  | .jp _ => ⟨"JP", 0x1000, 0xF000⟩
  | .call _ => ⟨"CALL", 0x2000, 0xF000⟩
  | .seImm _ _ => ⟨"SE_IMM", 0x3000, 0xF000⟩
  | .sneImm _ _ => ⟨"SNE_IMM", 0x4000, 0xF000⟩
  | .seReg _ _ => ⟨"SE_REG", 0x5000, 0xF00F⟩
  | .ldImm _ _ => ⟨"LD_IMM", 0x6000, 0xF000⟩
  | .addImm _ _ => ⟨"ADD_IMM", 0x7000, 0xF000⟩
  | .ldReg _ _ => ⟨"LD_REG", 0x8000, 0xF00F⟩
  | .orReg _ _ => ⟨"OR", 0x8001, 0xF00F⟩
  | .andReg _ _ => ⟨"AND", 0x8002, 0xF00F⟩
  | .xorReg _ _ => ⟨"XOR", 0x8003, 0xF00F⟩
  | .addReg _ _ => ⟨"ADD_REG", 0x8004, 0xF00F⟩
  | .sub _ _ => ⟨"SUB", 0x8005, 0xF00F⟩
  | .shr _ _ => ⟨"SHR", 0x8006, 0xF00F⟩
  | .subn _ _ => ⟨"SUBN", 0x8007, 0xF00F⟩
  | .shl _ _ => ⟨"SHL", 0x800E, 0xF00F⟩
  | .sneReg _ _ => ⟨"SNE_REG", 0x9000, 0xF00F⟩
  | .ldI _ => ⟨"LD_I", 0xA000, 0xF000⟩
  | .jpV0 _ => ⟨"JP_V0", 0xB000, 0xF000⟩
  | .rnd _ _ => ⟨"RND", 0xC000, 0xF000⟩
  | .drw _ _ _ => ⟨"DRW", 0xD000, 0xF000⟩
  | .skp _ => ⟨"SKP", 0xE09E, 0xF0FF⟩
  | .sknp _ => ⟨"SKNP", 0xE0A1, 0xF0FF⟩
  | .ldVxDt _ => ⟨"LD_VX_DT", 0xF007, 0xF0FF⟩
  | .ldVxK _ => ⟨"LD_VX_K", 0xF00A, 0xF0FF⟩
  | .ldDtVx _ => ⟨"LD_DT_VX", 0xF015, 0xF0FF⟩
  | .ldStVx _ => ⟨"LD_ST_VX", 0xF018, 0xF0FF⟩
  | .addI _ => ⟨"ADD_I", 0xF01E, 0xF0FF⟩
  | .ldF _ => ⟨"LD_F", 0xF029, 0xF0FF⟩
  | .ldB _ => ⟨"LD_B", 0xF033, 0xF0FF⟩
  | .ldMemVx _ => ⟨"LD_MEM_VX", 0xF055, 0xF0FF⟩
  | .ldVxMem _ => ⟨"LD_VX_MEM", 0xF065, 0xF0FF⟩

end Sys2Proof
end

