-- ==== Sys2Proof/Config.lean ====
section
/-! DEFINITION. The implementation parameters of 00_scope.md R7: the fixed sizes, the three parameters the spec marks OPEN,
and the random-byte source as a free value. -/

namespace Sys2Proof.Config

/-- `MEM_SIZE`: 4096 bytes, addresses 0x000..0xFFF. -/
abbrev memSize : Nat := 4096

/-- `PROGRAM_BASE`: where the program is loaded and where execution starts. -/
abbrev programBase : Nat := 0x200

/-- `PROGRAM_MAX`: the longest program that loads. -/
abbrev programMax : Nat := 3584

/-- `FONT_BASE`: the address of the glyph of digit 0. -/
abbrev fontBase : Nat := 0x050

/-- `STACK_DEPTH`: the number of return-address slots (the spec's decision D3). -/
abbrev stackDepth : Nat := 16

/-- `FB_W`: the columns of the framebuffer. -/
abbrev fbWidth : Nat := 64

/-- `FB_H`: the rows of the framebuffer. -/
abbrev fbHeight : Nat := 32

/-- `BNNN_MODE`, OPEN (R154, D7): whether `Bnnn`'s target keeps its full width or only its low 8 bits. -/
inductive BnnnMode where
  | full
  | trunc8
deriving DecidableEq, Repr

/-- `FX29_BASE`, OPEN (R212, D8): the address `Fx29` adds `5 * V[x]` to, 0x050 or 0x000. -/
inductive Fx29Base where
  | at050
  | at000
deriving DecidableEq, Repr

/-- `VF_ORDER`, OPEN (R180, D10): in which order a flag-writing instruction writes `V[x]` and `VF`. -/
inductive VfOrder where
  | flagLast
  | tableOrder
deriving DecidableEq, Repr

/-- The OPEN parameters of R7, one value each per machine. They are carried beside the state so that a statement about every
state is a statement about every reading of the source (R8); no operation changes them (DESIGN CHOICE, safe for such statements: log entry 2). -/
structure Params where
  bnnnMode : BnnnMode
  fx29Base : Fx29Base
  vfOrder : VfOrder
deriving DecidableEq, Repr

/-- The random-byte source of `Cxnn` (R38, U1): the byte on `rnd_byte` at the n-th draw. It has no body, so every claim
holds for every sequence of bytes (DESIGN CHOICE, safe: log entry 1). -/
opaque rndByte : Nat → Byte

end Sys2Proof.Config
end

