-- ==== Sys2Proof/Machine/Params.lean ====
section
/-! DEFINITION. The values of the parameters of 00_scope.md R7: the defaults of the OPEN ones, and `FONT`. -/

namespace Sys2Proof.Machine

/-- The spec's defaults of the OPEN parameters: `Full`, 0x050, `FlagLast` (R7, D7, D8, D10). -/
def defaultParams : Config.Params := ⟨.full, .at050, .flagLast⟩

/-- The parameter `FONT`: the 80 glyph bytes of 10_state.md R31, five a digit from 0 to F (the spec's decision D21). -/
def font : List Byte :=
  [0xF0, 0x90, 0x90, 0x90, 0xF0] ++ [0x20, 0x60, 0x20, 0x20, 0x70] ++
  [0xF0, 0x10, 0xF0, 0x80, 0xF0] ++ [0xF0, 0x10, 0xF0, 0x10, 0xF0] ++
  [0x90, 0x90, 0xF0, 0x10, 0x10] ++ [0xF0, 0x80, 0xF0, 0x10, 0xF0] ++
  [0xF0, 0x80, 0xF0, 0x90, 0xF0] ++ [0xF0, 0x10, 0x20, 0x40, 0x40] ++
  [0xF0, 0x90, 0xF0, 0x90, 0xF0] ++ [0xF0, 0x90, 0xF0, 0x10, 0xF0] ++
  [0xF0, 0x90, 0xF0, 0x90, 0x90] ++ [0xE0, 0x90, 0xE0, 0x90, 0xE0] ++
  [0xF0, 0x80, 0x80, 0x80, 0xF0] ++ [0xE0, 0x90, 0x90, 0x90, 0xE0] ++
  [0xF0, 0x80, 0xF0, 0x80, 0xF0] ++ [0xF0, 0x80, 0xF0, 0x80, 0x80]

/-- The number `FX29_BASE` stands for (R212). -/
def fx29BaseAddr : Config.Fx29Base → Nat
  | .at050 => Config.fontBase
  | .at000 => 0x000

end Sys2Proof.Machine
end

