-- ==== Sys2Proof/Machine/State.lean ====
section
/-! DEFINITION. The state of the machine as plain data (10_state.md R20, R36), the outcomes other than a next state, and the
state after reset (70_reset_and_hazards.md R281). -/

namespace Sys2Proof.Machine

/-- Memory as the cells that differ from what an unlisted address reads as (`unlisted`): addresses strictly rising, none
above 0xFFF (`Memory.wf`). -/
abbrev Memory := List Host.Cell

/-- The pixels, `fb[x][y]` at column x and row y; `true` is set (R32). -/
abbrev Framebuffer := Vector (Vector Bool Config.fbHeight) Config.fbWidth

/-- `run` (R35). -/
inductive RunState where
  | running
  | faulted
deriving DecidableEq, Repr

/-- The six faults of 60_exceptions.md R250. Each is taken as a next state that holds the fault record (R251). -/
inductive FaultKind where
  | loadError
  | illegalInstruction
  | stackUnderflow
  | stackOverflow
  | memoryOutOfRange
  | keyIndexOutOfRange
deriving DecidableEq, Repr

/-- The reasons to stop outside the state. There is none: every fault of this hardware has an entry the spec describes
(R251), so it is a next state with `run = faulted`, and no operation raises a constructor of this type. Safe. -/
inductive Fault where
deriving DecidableEq, Repr

/-- The reasons to refuse an instruction. -/
inductive Refusal where
  /-- Raised by `exec` alone, for an instruction that has no meaning yet; no arm raises it now. Safe. -/
  | notModelled (mnemonic : String)
deriving DecidableEq, Repr

/-- The architectural state of R20, and the two fields of the model's own: `params` (DESIGN CHOICE: log entry 2) and `draws`
(DESIGN CHOICE, safe: log entry 1). -/
structure State where
  mem : Memory
  V : Vector Byte 16
  I : Word
  pc : Word
  stack : Vector Word Config.stackDepth
  sp : Fin (Config.stackDepth + 1)
  DT : Byte
  ST : Byte
  keys : Vector Bool 16
  fb : Framebuffer
  redraw : Bool
  run : RunState
  faultCode : BitVec 4
  faultPc : Word
  faultOpcode : Word
  faultInfo : Word
  params : Config.Params
  draws : Nat
deriving DecidableEq, Repr

/-- The state a successful construct leaves (R281) with a program that adds no byte to zero memory (DESIGN CHOICE, safe: log entry 4): FONT and
zeros in memory, `pc` at the entry point, everything else zero, released, clear and running. -/
def State.reset : State where
  mem := []
  V := Vector.replicate 16 0
  I := 0
  pc := 0x200
  stack := Vector.replicate Config.stackDepth 0
  sp := 0
  DT := 0
  ST := 0
  keys := Vector.replicate 16 false
  fb := Vector.replicate Config.fbWidth (Vector.replicate Config.fbHeight false)
  redraw := false
  run := .running
  faultCode := 0
  faultPc := 0
  faultOpcode := 0
  faultInfo := 0
  params := defaultParams
  draws := 0

end Sys2Proof.Machine
end

