-- ==== Sys2Proof/Machine/Ops.lean ====
section
/-! DEFINITION. The named operations over memory, registers, stack and framebuffer; taking a fault; and fetch. -/

namespace Sys2Proof.Machine

/-! ### Memory (20_memory.md) -/

/-- What an unlisted address reads as: FONT at 0x050..0x09F and zero elsewhere (R31, R66; DEDUCED, unsafe only for claims about glyph pixels: log entry 3). -/
def unlisted (a : Nat) : Byte := if Config.fontBase ≤ a then font.getD (a - Config.fontBase) 0 else 0

/-- The byte at an address: the listed one, else `unlisted` (R65, R69). -/
def memRead : Memory → Nat → Byte
  | [], a => unlisted a
  | (k, b) :: m, a => if k = a then b else memRead m a

/-- Put a byte at an address of a canonical memory; the byte an unlisted address reads as is not listed. -/
def memWrite : Memory → Nat → Byte → Memory
  | [], a, b => if b = unlisted a then [] else [(a, b)]
  | (k, c) :: m, a, b =>
    if a < k then (if b = unlisted a then (k, c) :: m else (a, b) :: (k, c) :: m)
    else if a = k then (if b = unlisted a then m else (a, b) :: m)
    else (k, c) :: memWrite m a b

/-- Bytes at consecutive addresses, ascending. -/
def memWriteList : Memory → Nat → List Byte → Memory
  | m, _, [] => m
  | m, a, b :: bs => memWriteList (memWrite m a b) (a + 1) bs

/-- The canonical form: addresses strictly rising, all in the address space, no cell equal to what an unlisted address
reads as. -/
abbrev Memory.wf (m : Memory) : Prop :=
  m.Pairwise (fun c d => c.1 < d.1) ∧ ∀ c ∈ m, c.1 < Config.memSize ∧ c.2 ≠ unlisted c.1

/-- The byte at an address of the state's memory. -/
def State.readMem (s : State) (a : Nat) : Byte := memRead s.mem a

/-! ### Registers (10_state.md R21, R25, R26) -/

/-- `V[r]`. -/
def State.readReg (s : State) (r : Nibble) : Byte := s.V[r.toNat]'r.isLt

/-- `V[r] <- b`. -/
def State.writeReg (s : State) (r : Nibble) (b : Byte) : State := { s with V := s.V.set r.toNat b r.isLt }

/-- `I <- a`. -/
def State.setI (s : State) (a : Word) : State := { s with I := a }

/-- `pc <- a`. -/
def State.setPc (s : State) (a : Word) : State := { s with pc := a }

/-- The advance of fetch, `pc <- trunc_16(pc_f + 2)` (40_engine_cycle.md R103). -/
def State.advance (s : State) : State := s.setPc (s.pc + 2)

/-- `Skip`: `pc <- trunc_16(pc + 2)` (43_skips.md R170). -/
def State.skip (s : State) : State := s.setPc (s.pc + 2)

/-- `DT <- b` (R29, `load`). -/
def State.setDT (s : State) (b : Byte) : State := { s with DT := b }

/-- `ST <- b` (R29, `load`). -/
def State.setST (s : State) (b : Byte) : State := { s with ST := b }

/-- The memory replaced. -/
def State.setMem (s : State) (m : Memory) : State := { s with mem := m }

/-- `V` replaced whole, for the multi-register load. -/
def State.setV (s : State) (v : Vector Byte 16) : State := { s with V := v }

/-- One random byte consumed (R38). -/
def State.consumeDraw (s : State) : State := { s with draws := s.draws + 1 }

/-! ### The call stack (R27) -/

/-- `Push(v)`; `none` where the stack is full, for the instruction to raise StackOverflow. -/
def State.push (s : State) (v : Word) : Option State :=
  if h : s.sp.val < Config.stackDepth then
    some { s with stack := s.stack.set s.sp.val v h, sp := ⟨s.sp.val + 1, Nat.succ_lt_succ h⟩ }
  else none

/-- `Pop()`; `none` where the stack is empty, for the instruction to raise StackUnderflow. -/
def State.pop (s : State) : Option (Word × State) :=
  if h : 0 < s.sp.val then
    have hk : s.sp.val - 1 < Config.stackDepth := by have := s.sp.isLt; omega
    some (s.stack[s.sp.val - 1], { s with sp := ⟨s.sp.val - 1, Nat.lt_succ_of_lt hk⟩ })
  else none

/-! ### The keypad (R30) -/

/-- Whether key `k` is pressed. -/
def State.keyDown (s : State) (k : Nibble) : Bool := s.keys[k.toNat]'k.isLt

/-! ### The framebuffer (R33, 41_display.md R130 to R132) -/

/-- `get(x, y)`: both coordinates wrap (R130). -/
def fbGet (f : Framebuffer) (x y : Nat) : Bool :=
  (f[x % Config.fbWidth]'(Nat.mod_lt _ (by decide)))[y % Config.fbHeight]'(Nat.mod_lt _ (by decide))

/-- One pixel set to a value; both coordinates wrap. -/
def fbPut (f : Framebuffer) (x y : Nat) (p : Bool) : Framebuffer :=
  f.set (x % Config.fbWidth)
    ((f[x % Config.fbWidth]'(Nat.mod_lt _ (by decide))).set (y % Config.fbHeight) p (Nat.mod_lt _ (by decide)))
    (Nat.mod_lt _ (by decide))

/-- `toggle(x, y)`: the pixel flipped, and its new value (R131). -/
def fbToggle (f : Framebuffer) (x y : Nat) : Framebuffer × Bool :=
  (fbPut f x y (!fbGet f x y), !fbGet f x y)

/-- `clear()`: every pixel unset (R132). -/
def fbClear : Framebuffer := Vector.replicate Config.fbWidth (Vector.replicate Config.fbHeight false)

/-- The pixel at (x, y) of the state. -/
def State.pixel (s : State) (x y : Nat) : Bool := fbGet s.fb x y

/-- The framebuffer replaced and the redraw flag set, as drawing and clearing do (R34). -/
def State.setFb (s : State) (f : Framebuffer) : State := { s with fb := f, redraw := true }

/-! ### Faults (60_exceptions.md) -/

/-- The numeric codes of R250. -/
def FaultKind.code : FaultKind → BitVec 4
  | .loadError => 1
  | .illegalInstruction => 2
  | .stackUnderflow => 3
  | .stackOverflow => 4
  | .memoryOutOfRange => 5
  | .keyIndexOutOfRange => 6

/-- `raise E(info)` (R251): the run state and the fault record, and nothing else. -/
def State.raise (s : State) (e : FaultKind) (pcF opcode info : Word) : State :=
  { s with run := .faulted, faultCode := e.code, faultPc := pcF, faultOpcode := opcode, faultInfo := info }

/-- `raise E(info)` by the instruction that executes, with `pc = pc_f + 2` (R103): its address is `pc - 2` and its opcode is
its encoding (DEDUCED, safe: log entry 6). -/
def State.raiseIn (s : State) (i : Instr) (e : FaultKind) (info : Word) : State :=
  s.raise e (s.pc - 2) (encode i) info

/-- The fault record cleared and the engine running, as after a successful construct (R281). -/
def State.clearFault (s : State) : State :=
  { s with run := .running, faultCode := 0, faultPc := 0, faultOpcode := 0, faultInfo := 0 }

/-! ### Fetch (40_engine_cycle.md R102) -/

/-- The last address an opcode can be fetched from. -/
abbrev lastFetch : Nat := 0xFFE

/-- The opcode at an address, big-endian (R61). -/
def State.readOpcode (s : State) (a : Nat) : Word := wordOfBytes (s.readMem a) (s.readMem (a + 1))

/-- Fetch: the opcode at `pc`, or the lowest out-of-range address of the two it needs. -/
def State.fetch (s : State) : Except Word Word :=
  if lastFetch < s.pc.toNat then .error (if s.pc = 0xFFF#16 then 0x1000#16 else s.pc)
  else .ok (s.readOpcode s.pc.toNat)

/-- The fault a fetch raises: `pc` stays at `pc_f` and the recorded opcode is 0 (R102, R251). -/
def State.raiseFetch (s : State) (a : Word) : State := s.raise .memoryOutOfRange s.pc 0 a

/-- The fault decoding raises, before any execution; `pc` has advanced (R253). -/
def State.raiseIllegal (s : State) (opcode : Word) : State := s.raise .illegalInstruction (s.pc - 2) opcode 0

/-- An opcode stored where fetch reads the next one, and the engine made to run if it is faulted. Where `pc` is past the last
fetch address there is no such place and memory is left alone. -/
def State.placeWord (s : State) (w : Word) : State :=
  let s := if s.run = .faulted then s.clearFault else s
  if lastFetch < s.pc.toNat then s else s.setMem (memWriteList s.mem s.pc.toNat [wordHi w, wordLo w])

end Sys2Proof.Machine
end

