-- ==== Sys2Proof/Machine/Flags.lean ====
section
/-! DEFINITION. The values of the flag register `VF` (10_state.md R24) and the write orders of 44_alu.md R180. -/

namespace Sys2Proof.Machine

/-- The index of `VF`. -/
abbrev vfIndex : Nibble := 0xF#4

/-- A flag as the byte written to `VF`: 1 or 0. -/
def flagByte (b : Bool) : Byte := if b then 1 else 0

/-- 8xy4: carry out of bit 7, the exact sum exceeds 255 (R188). -/
def carryFlag (a b : Byte) : Byte := flagByte (decide (255 < a.toNat + b.toNat))

/-- 8xy5 and 8xy7: no borrow in `a - b` (R189, R191). -/
def noBorrowFlag (a b : Byte) : Byte := flagByte (decide (b.toNat ≤ a.toNat))

/-- 8xy6: the bit shifted out on the right (R190). -/
def lsbFlag (a : Byte) : Byte := a &&& 1

/-- 8xyE: the bit shifted out on the left (R192). -/
def msbFlag (a : Byte) : Byte := flagByte (decide (a &&& 0x80 ≠ 0))

/-- `VF <- f`. -/
def State.writeFlag (s : State) (f : Byte) : State := s.writeReg vfIndex f

/-- `V[x] <- r` and then `VF <- f`: `FlagLast`, and the order of the rows 8xy4, 8xy5 and 8xy7 too (R180). -/
def State.writeThenFlag (s : State) (x : Nibble) (r f : Byte) : State := (s.writeReg x r).writeFlag f

/-- The write of a shift (R180). `FlagLast` computes from the state before; `TableOrder` writes `VF` first and then shifts
`V[x]` as it now stands. -/
def State.writeShift (s : State) (x : Nibble) (shift : Byte → Byte) (f : Byte) : State :=
  match s.params.vfOrder with
  | .flagLast => s.writeThenFlag x (shift (s.readReg x)) f
  | .tableOrder => (s.writeFlag f).writeReg x (shift ((s.writeFlag f).readReg x))

end Sys2Proof.Machine
end

