-- ==== Sys2Proof/Machine/Alu.lean ====
section
/-! DEFINITION. The register and arithmetic family, 44_alu.md: 6xnn, 7xnn, 8xy0 to 8xy7, 8xyE, Cxnn. Arithmetic is 8-bit
unsigned with wrap-around (R181). -/

namespace Sys2Proof.Machine

open Host (Outcome)

/-- R182. -/
def execLdImm (x : Nibble) (nn : Byte) (s : State) : Outcome State Fault Refusal := .next (s.writeReg x nn)

/-- R183: no flag. -/
def execAddImm (x : Nibble) (nn : Byte) (s : State) : Outcome State Fault Refusal :=
  .next (s.writeReg x (s.readReg x + nn))

/-- R184. -/
def execLdReg (x y : Nibble) (s : State) : Outcome State Fault Refusal := .next (s.writeReg x (s.readReg y))

/-- R185: `VF` is left alone. -/
def execOr (x y : Nibble) (s : State) : Outcome State Fault Refusal :=
  .next (s.writeReg x (s.readReg x ||| s.readReg y))

/-- R186: `VF` is left alone. -/
def execAnd (x y : Nibble) (s : State) : Outcome State Fault Refusal :=
  .next (s.writeReg x (s.readReg x &&& s.readReg y))

/-- R187: `VF` is left alone. -/
def execXor (x y : Nibble) (s : State) : Outcome State Fault Refusal :=
  .next (s.writeReg x (s.readReg x ^^^ s.readReg y))

/-- R188. -/
def execAddReg (x y : Nibble) (s : State) : Outcome State Fault Refusal :=
  .next (s.writeThenFlag x (s.readReg x + s.readReg y) (carryFlag (s.readReg x) (s.readReg y)))

/-- R189. -/
def execSub (x y : Nibble) (s : State) : Outcome State Fault Refusal :=
  .next (s.writeThenFlag x (s.readReg x - s.readReg y) (noBorrowFlag (s.readReg x) (s.readReg y)))

/-- R190: `y` is not used. -/
def execShr (x _y : Nibble) (s : State) : Outcome State Fault Refusal :=
  .next (s.writeShift x (fun b => b >>> 1) (lsbFlag (s.readReg x)))

/-- R191. -/
def execSubn (x y : Nibble) (s : State) : Outcome State Fault Refusal :=
  .next (s.writeThenFlag x (s.readReg y - s.readReg x) (noBorrowFlag (s.readReg y) (s.readReg x)))

/-- R192: `y` is not used. -/
def execShl (x _y : Nibble) (s : State) : Outcome State Fault Refusal :=
  .next (s.writeShift x (fun b => b <<< 1) (msbFlag (s.readReg x)))

/-- R193 for a given draw: `V[x] <- rnd & nn`. -/
def rndResult (x : Nibble) (nn draw : Byte) (s : State) : State := s.writeReg x (draw &&& nn)

/-- R193, R38: exactly one byte of the free random source is consumed (DESIGN CHOICE, safe: log entry 1). -/
def execRnd (x : Nibble) (nn : Byte) (s : State) : Outcome State Fault Refusal :=
  .next (rndResult x nn (Config.rndByte s.draws) s).consumeDraw

end Sys2Proof.Machine
end

