-- ==== Sys2Proof/Machine/Operands.lean ====
section
/-! DEFINITION. The operand forms: zero-extended immediates (30_encoding.md R83), the range of addresses from `I`
(20_memory.md R63), jump targets, glyph addresses, decimal digits, sprite bits and the pressed keys. -/

namespace Sys2Proof.Machine

/-- `zext_16(nnn)` (R83). -/
def zextAddr (nnn : Addr12) : Word := nnn.setWidth 16

/-- `zext_16` of a byte (R83). -/
def zextByte (b : Byte) : Word := b.setWidth 16

/-- The check of R63 for the `count` addresses from `I`: the lowest one above 0xFFF, if any. Sums are unbounded naturals. -/
def rangeFault (base : Word) (count : Nat) : Option Word :=
  if 0 < count ∧ Config.memSize ≤ base.toNat + (count - 1) then some (BitVec.ofNat 16 (max base.toNat Config.memSize))
  else none

/-- The target of `Bnnn` under both values of `BNNN_MODE` (R154). -/
def bnnnTarget (mode : Config.BnnnMode) (nnn : Addr12) (v0 : Byte) : Word :=
  match mode with
  | .full => zextAddr nnn + zextByte v0
  | .trunc8 => (zextAddr nnn + zextByte v0) &&& 0xFF

/-- `FX29_BASE + 5 * v` (R212). -/
def glyphAddr (base : Config.Fx29Base) (v : Byte) : Word := BitVec.ofNat 16 (fx29BaseAddr base + 5 * v.toNat)

/-- The decimal digits of a byte, hundreds first (R213). -/
def bcdDigits (v : Byte) : List Byte :=
  [BitVec.ofNat 8 (v.toNat / 100), BitVec.ofNat 8 (v.toNat / 10 % 10), BitVec.ofNat 8 (v.toNat % 10)]

/-- `V[0]` to `V[count-1]`, as Fx55 stores them (R214). -/
def State.regList (s : State) : Nat → List Byte
  | 0 => []
  | k + 1 => s.regList k ++ [s.readReg (BitVec.ofNat 4 k)]

/-- `V[0]` to `V[count-1]` loaded from memory at `a`, ascending (R215). -/
def loadRegs (m : Memory) (a : Nat) (v : Vector Byte 16) : Nat → Vector Byte 16
  | 0 => v
  | k + 1 => (loadRegs m a v k).set (BitVec.ofNat 4 k).toNat (memRead m (a + k)) (BitVec.ofNat 4 k).isLt

/-- The lowest pressed key among 0..15 (R233). -/
def State.lowestKey (s : State) : Option Nibble :=
  ((List.range 16).map (BitVec.ofNat 4)).find? s.keyDown

/-- The columns `0..count-1` of one sprite row, leftmost bit first: each set bit toggles its pixel, and a pixel that goes from
set to unset sets the hit (R134). -/
def drawBits (b : Byte) (cx cy : Nat) : Nat → Framebuffer × Bool → Framebuffer × Bool
  | 0, a => a
  | c + 1, a =>
    let p := drawBits b cx cy c a
    if b.getLsbD (7 - c) then
      let t := fbToggle p.1 (cx + c) cy
      (t.1, p.2 || !t.2)
    else p

/-- The rows `0..count-1` of a sprite whose bytes lie from address `i` on (R134). -/
def drawRows (m : Memory) (i cx cy : Nat) : Nat → Framebuffer × Bool → Framebuffer × Bool
  | 0, a => a
  | r + 1, a => drawBits (memRead m (i + r)) cx (cy + r) 8 (drawRows m i cx cy r a)

end Sys2Proof.Machine
end

