-- ==== Sys2Proof/Machine/ControlFlow.lean ====
section
/-! DEFINITION. The control-transfer family, 42_control_flow.md: 00EE, 0nnn, 1nnn, 2nnn, Bnnn. `pc` holds `pc_f + 2`. -/

namespace Sys2Proof.Machine

open Host (Outcome)

/-- `Push(pc); pc <- zext_16(nnn)`, the call of R151 and R153, with the StackOverflow of R255 raised by `i`. -/
def callTo (i : Instr) (nnn : Addr12) (s : State) : State :=
  match s.push s.pc with
  | some t => t.setPc (zextAddr nnn)
  | none => s.raiseIn i .stackOverflow (BitVec.ofNat 16 s.sp.val)

/-- R150: `pc <- Pop()`, or StackUnderflow. -/
def execRet (s : State) : Outcome State Fault Refusal :=
  match s.pop with
  | some (a, t) => .next (t.setPc a)
  | none => .next (s.raiseIn .ret .stackUnderflow 0)

/-- R151: the legacy alias of CALL. -/
def execSys (nnn : Addr12) (s : State) : Outcome State Fault Refusal := .next (callTo (.sys nnn) nnn s)

/-- R152. -/
def execJp (nnn : Addr12) (s : State) : Outcome State Fault Refusal := .next (s.setPc (zextAddr nnn))

/-- R153. -/
def execCall (nnn : Addr12) (s : State) : Outcome State Fault Refusal := .next (callTo (.call nnn) nnn s)

/-- R154, for both values of `BNNN_MODE`. -/
def execJpV0 (nnn : Addr12) (s : State) : Outcome State Fault Refusal :=
  .next (s.setPc (bnnnTarget s.params.bnnnMode nnn (s.readReg 0)))

end Sys2Proof.Machine
end

