-- ==== Sys2Proof/Machine/Display.lean ====
section
/-! DEFINITION. The display family, 41_display.md: 00E0 and Dxyn. -/

namespace Sys2Proof.Machine

open Host (Outcome)

/-- R133: `Clear(); redraw <- true`. -/
def execCls (s : State) : Outcome State Fault Refusal := .next (s.setFb fbClear)

/-- R134: the sprite-row addresses are checked before anything is written, the coordinates are read before `VF` is. -/
def execDrw (x y n : Nibble) (s : State) : Outcome State Fault Refusal :=
  match rangeFault s.I n.toNat with
  | some a => .next (s.raiseIn (.drw x y n) .memoryOutOfRange a)
  | none =>
    let d := drawRows s.mem s.I.toNat (s.readReg x).toNat (s.readReg y).toNat n.toNat (s.fb, false)
    .next ((s.setFb d.1).writeFlag (flagByte d.2))

end Sys2Proof.Machine
end

