-- ==== Sys2Proof/Machine/IndexMemory.lean ====
section
/-! DEFINITION. The index-register and memory family, 45_index_memory.md: Annn, Fx1E, Fx29, Fx33, Fx55, Fx65. Every address is
checked before the first write (20_memory.md R63); `I` is not changed by an access. -/

namespace Sys2Proof.Machine

open Host (Outcome)

/-- R210. -/
def execLdI (nnn : Addr12) (s : State) : Outcome State Fault Refusal := .next (s.setI (zextAddr nnn))

/-- R211: wraps at 2^16, no flag. -/
def execAddI (x : Nibble) (s : State) : Outcome State Fault Refusal := .next (s.setI (s.I + zextByte (s.readReg x)))

/-- R212: reads no memory. -/
def execLdF (x : Nibble) (s : State) : Outcome State Fault Refusal :=
  .next (s.setI (glyphAddr s.params.fx29Base (s.readReg x)))

/-- R213. -/
def execLdB (x : Nibble) (s : State) : Outcome State Fault Refusal :=
  match rangeFault s.I 3 with
  | some a => .next (s.raiseIn (.ldB x) .memoryOutOfRange a)
  | none => .next (s.setMem (memWriteList s.mem s.I.toNat (bcdDigits (s.readReg x))))

/-- R214. -/
def execLdMemVx (x : Nibble) (s : State) : Outcome State Fault Refusal :=
  match rangeFault s.I (x.toNat + 1) with
  | some a => .next (s.raiseIn (.ldMemVx x) .memoryOutOfRange a)
  | none => .next (s.setMem (memWriteList s.mem s.I.toNat (s.regList (x.toNat + 1))))

/-- R215. -/
def execLdVxMem (x : Nibble) (s : State) : Outcome State Fault Refusal :=
  match rangeFault s.I (x.toNat + 1) with
  | some a => .next (s.raiseIn (.ldVxMem x) .memoryOutOfRange a)
  | none => .next (s.setV (loadRegs s.mem s.I.toNat s.V (x.toNat + 1)))

end Sys2Proof.Machine
end

