-- ==== Sys2Proof/Machine/Skips.lean ====
section
/-! DEFINITION. The conditional skips, 43_skips.md: 3xnn, 4xnn, 5xy0, 9xy0. -/

namespace Sys2Proof.Machine

open Host (Outcome)

/-- `if c then Skip` (R170). -/
def State.skipIf (s : State) (c : Bool) : State := if c then s.skip else s

/-- R171. -/
def execSeImm (x : Nibble) (nn : Byte) (s : State) : Outcome State Fault Refusal :=
  .next (s.skipIf (s.readReg x == nn))

/-- R172. -/
def execSneImm (x : Nibble) (nn : Byte) (s : State) : Outcome State Fault Refusal :=
  .next (s.skipIf (s.readReg x != nn))

/-- R173. -/
def execSeReg (x y : Nibble) (s : State) : Outcome State Fault Refusal :=
  .next (s.skipIf (s.readReg x == s.readReg y))

/-- R174. -/
def execSneReg (x y : Nibble) (s : State) : Outcome State Fault Refusal :=
  .next (s.skipIf (s.readReg x != s.readReg y))

end Sys2Proof.Machine
end

