-- ==== Sys2Proof/Machine/KeypadTimers.lean ====
section
/-! DEFINITION. The keypad and timer instructions, 46_keypad_timers.md: Ex9E, ExA1, Fx07, Fx0A, Fx15, Fx18. -/

namespace Sys2Proof.Machine

open Host (Outcome)

/-- The key test of R230 and R231: `c` of the key's state decides the skip, and an index above 15 raises
KeyIndexOutOfRange by `i`. -/
def keySkip (i : Instr) (v : Byte) (c : Bool → Bool) (s : State) : State :=
  if 15 < v.toNat then s.raiseIn i .keyIndexOutOfRange (zextByte v)
  else s.skipIf (c (s.keyDown (v.setWidth 4)))

/-- R230. -/
def execSkp (x : Nibble) (s : State) : Outcome State Fault Refusal :=
  .next (keySkip (.skp x) (s.readReg x) (fun down => down) s)

/-- R231. -/
def execSknp (x : Nibble) (s : State) : Outcome State Fault Refusal :=
  .next (keySkip (.sknp x) (s.readReg x) (fun down => !down) s)

/-- R232. -/
def execLdVxDt (x : Nibble) (s : State) : Outcome State Fault Refusal := .next (s.writeReg x s.DT)

/-- R233: the lowest pressed key, or `pc` rewound so that the instruction executes again. -/
def execLdVxK (x : Nibble) (s : State) : Outcome State Fault Refusal :=
  match s.lowestKey with
  | some k => .next (s.writeReg x (k.setWidth 8))
  | none => .next (s.setPc (s.pc - 2))

/-- R234. -/
def execLdDtVx (x : Nibble) (s : State) : Outcome State Fault Refusal := .next (s.setDT (s.readReg x))

/-- R235. -/
def execLdStVx (x : Nibble) (s : State) : Outcome State Fault Refusal := .next (s.setST (s.readReg x))

end Sys2Proof.Machine
end

