-- ==== Sys2Proof/Machine/Step.lean ====
section
/-! DEFINITION. One step of the engine (40_engine_cycle.md R101 to R107), and an instruction placed for the next fetch. -/

namespace Sys2Proof.Machine

/-- `step()` (R101): nothing while faulted (R107); else fetch, advance, decode, execute, each fault taken as a next state. -/
def step (s : State) : Host.Outcome State Fault Refusal :=
  match s.run with
  | .faulted => .next s
  | .running =>
    match s.fetch with
    | .error a => .next (s.raiseFetch a)
    | .ok w =>
      match decodeWord w with
      | .error _ => .next (s.advance.raiseIllegal w)
      | .ok i => exec i s.advance

/-- `s` with the instruction whose table bits are `w` placed where `step` fetches next; it stands for the load that the
host's construct makes (DESIGN CHOICE, safe: log entry 4). -/
def State.withFetchWord (s : State) (nbits w : Nat) : State := s.placeWord (tableWord nbits w)

end Sys2Proof.Machine
end

