-- ==== Sys2Proof/Machine/HostOps.lean ====
section
/-! DEFINITION. The operations the host invokes beside step (40_engine_cycle.md R100), the order of requests in one cycle
(R112), and the outputs (10_state.md R37).
They are functions the host applies between steps (DESIGN CHOICE, safe: log entries 7 and 8). -/

namespace Sys2Proof.Machine

/-- construct(rom) (70_reset_and_hazards.md R280, R282, R285): everything is put at its reset value, then the program is loaded
at 0x200, or LoadError recorded. The configuration and the position in the random source are no state and stay. -/
def State.construct (s : State) (rom : List Byte) : State :=
  let r := { State.reset with params := s.params, draws := s.draws }
  if rom.length = 0 ∨ Config.programMax < rom.length then r.raise .loadError 0x200 0 0
  else r.setMem (memWriteList r.mem Config.programBase rom)

/-- `tick()` of one timer (R29): down by one above zero, never below. -/
def tickDown (b : Byte) : Byte := if b = 0 then 0 else b - 1

/-- tick_timers() (46_keypad_timers.md R240). -/
def State.tickTimers (s : State) : State :=
  match s.run with
  | .faulted => s
  | .running => { s with DT := tickDown s.DT, ST := tickDown s.ST }

/-- deliver_key_event(k, pressed) (R241); the index is a 4-bit value, so none is out of range. -/
def State.deliverKey (s : State) (k : Nibble) (pressed : Bool) : State :=
  match s.run with
  | .faulted => s
  | .running => { s with keys := s.keys.set k.toNat pressed k.isLt }

/-- clear_redraw() (R110), a no-op while faulted (R107). -/
def State.clearRedraw (s : State) : State :=
  match s.run with
  | .faulted => s
  | .running => { s with redraw := false }

/-- sound_should_play() (R242). -/
def State.soundShouldPlay (s : State) : Bool := s.ST != 0

/-- The requests that can stand in one cycle (R37, R112). -/
structure Requests where
  construct : Option (List Byte)
  key : Option (Nibble × Bool)
  clearRedraw : Bool
  step : Bool
  tick : Bool
deriving DecidableEq, Repr

/-- A machine outcome continued by a state change. -/
def mapNext (f : State → State) : Host.Outcome State Fault Refusal → Host.Outcome State Fault Refusal
  | .next s => .next (f s)
  | .fault r => .fault r
  | .refused r => .refused r

/-- The state the step of a cycle sees: the key event, then the redraw clear, have been applied (R112). -/
def beforeStep (q : Requests) (s : State) : State :=
  let s := match q.key with
    | some (k, pressed) => s.deliverKey k pressed
    | none => s
  if q.clearRedraw then s.clearRedraw else s

/-- One cycle (R112): construct overrides everything, else key event, clear_redraw, step and tick in that order. -/
def cycle (q : Requests) (s : State) : Host.Outcome State Fault Refusal :=
  match q.construct with
  | some rom => .next (s.construct rom)
  | none =>
    mapNext (fun t => if q.tick then t.tickTimers else t)
      (if q.step then Sys2Proof.Machine.step (beforeStep q s) else .next (beforeStep q s))

/-- The outputs of R37; the pixel is the one at the read address given. -/
structure Outputs where
  pixQ : Bool
  redraw : Bool
  soundOn : Bool
  faulted : Bool
  faultCode : BitVec 4
  faultPc : Word
  faultOpcode : Word
  faultInfo : Word
deriving DecidableEq, Repr

/-- What the host reads (R110, R111, R113, R242), a pure function of the state. -/
def State.outputs (s : State) (pixX : BitVec 6) (pixY : BitVec 5) : Outputs where
  pixQ := s.pixel pixX.toNat pixY.toNat
  redraw := s.redraw
  soundOn := s.soundShouldPlay
  faulted := decide (s.run = .faulted)
  faultCode := s.faultCode
  faultPc := s.faultPc
  faultOpcode := s.faultOpcode
  faultInfo := s.faultInfo

end Sys2Proof.Machine
end

