-- ==== Sys2Proof/Safety.lean ====
section
/-! DEFINITION. The terms claims are stated in: what two states agree on (frames), which state an instruction may write
(10_state.md R20, R22), when it raises a fault (60_exceptions.md R250, R259), the invariant of every run, and a halted state
(70_reset_and_hazards.md R295). -/

namespace Sys2Proof.Machine

/-- The pieces of the state, as frames name them; the fault record and `run` are one piece, since only a fault (R251) and a
construct write them. -/
inductive Piece where
  | mem
  | regs
  | index
  | pc
  | stack
  | sp
  | delay
  | sound
  | keys
  | pixels
  | redraw
  | faultState
  | params
  | draws
deriving DecidableEq, Repr

/-- Two states hold the same run state and fault record. -/
def SameFault (s t : State) : Prop :=
  t.run = s.run ∧ t.faultCode = s.faultCode ∧ t.faultPc = s.faultPc ∧ t.faultOpcode = s.faultOpcode ∧ t.faultInfo = s.faultInfo

/-- Two states agree on a piece, said through the reads of it: every byte of memory, every register, every slot, every key,
every pixel. -/
def Agree (s t : State) : Piece → Prop
  | .mem => ∀ a, t.readMem a = s.readMem a
  | .regs => ∀ r, t.readReg r = s.readReg r
  | .index => t.I = s.I
  | .pc => t.pc = s.pc
  | .stack => ∀ k : Fin Config.stackDepth, t.stack[k] = s.stack[k]
  | .sp => t.sp = s.sp
  | .delay => t.DT = s.DT
  | .sound => t.ST = s.ST
  | .keys => ∀ k, t.keyDown k = s.keyDown k
  | .pixels => ∀ x y, t.pixel x y = s.pixel x y
  | .redraw => t.redraw = s.redraw
  | .faultState => SameFault s t
  | .params => t.params = s.params
  | .draws => t.draws = s.draws

/-- Every piece but the named ones is unchanged from `s` to `t`. -/
def Unchanged (ps : List Piece) (s t : State) : Prop := ∀ p, p ∉ ps → Agree s t p

/-- Every register but the named ones is unchanged from `s` to `t`. -/
def RegsUnchanged (rs : List Nibble) (s t : State) : Prop := ∀ r, r ∉ rs → t.readReg r = s.readReg r

/-- Executing `i` in `s` answers a next state of which `P` holds. -/
def Completes (i : Instr) (s : State) (P : State → Prop) : Prop := ∃ t, exec i s = .next t ∧ P t

/-- `t` is `s` after `raise e(info)` by the instruction at `pcF` with the given opcode, and nothing else is changed (R251). -/
def FaultTaken (e : FaultKind) (pcF opcode info : Word) (s t : State) : Prop :=
  t.run = .faulted ∧ t.faultCode = e.code ∧ t.faultPc = pcF ∧ t.faultOpcode = opcode ∧ t.faultInfo = info ∧
    Unchanged [.faultState] s t

/-- The lowest address above 0xFFF in a range that starts at `base` and leaves memory: `max(base, 0x1000)`
(45_index_memory.md). -/
def lowestOut (base : Word) : Word := if base.toNat < 0x1000 then 0x1000 else base

/-- The fault of its own an instruction raises in a state, with its `fault_info` (R250, R259). -/
def ownFault (i : Instr) (s : State) : Option (FaultKind × Word) :=
  match i with
  | .ret => if s.sp.val = 0 then some (.stackUnderflow, 0) else none
  | .sys _ | .call _ => if s.sp.val = 16 then some (.stackOverflow, 16) else none
  | .drw _ _ n =>
    if n.toNat ≠ 0 ∧ 0xFFF < s.I.toNat + n.toNat - 1 then some (.memoryOutOfRange, lowestOut s.I) else none
  | .ldB _ => if 0xFFF < s.I.toNat + 2 then some (.memoryOutOfRange, lowestOut s.I) else none
  | .ldMemVx x | .ldVxMem x => if 0xFFF < s.I.toNat + x.toNat then some (.memoryOutOfRange, lowestOut s.I) else none
  | .skp x | .sknp x =>
    if 15 < (s.readReg x).toNat then some (.keyIndexOutOfRange, (s.readReg x).setWidth 16) else none
  | .cls | .jp _ | .seImm _ _ | .sneImm _ _ | .seReg _ _ | .ldImm _ _ | .addImm _ _ | .ldReg _ _ | .orReg _ _ | .andReg _ _
  | .xorReg _ _ | .addReg _ _ | .sub _ _ | .shr _ _ | .subn _ _ | .shl _ _ | .sneReg _ _ | .ldI _ | .jpV0 _ | .rnd _ _
  | .ldVxDt _ | .ldVxK _ | .ldDtVx _ | .ldStVx _ | .addI _ | .ldF _ => none

/-- The pieces an instruction that raises no fault may write (R20, the column "writable by"). -/
def mayWrite : Instr → List Piece
  | .cls => [.pixels, .redraw]
  | .drw _ _ _ => [.pixels, .redraw, .regs]
  | .ret => [.pc, .sp]
  | .sys _ | .call _ => [.pc, .sp, .stack]
  | .jp _ | .jpV0 _ | .seImm _ _ | .sneImm _ _ | .seReg _ _ | .sneReg _ _ | .skp _ | .sknp _ => [.pc]
  | .ldVxK _ => [.pc, .regs]
  | .rnd _ _ => [.regs, .draws]
  | .ldImm _ _ | .addImm _ _ | .ldReg _ _ | .orReg _ _ | .andReg _ _ | .xorReg _ _ | .addReg _ _ | .sub _ _ | .shr _ _
  | .subn _ _ | .shl _ _ | .ldVxDt _ | .ldVxMem _ => [.regs]
  | .ldI _ | .addI _ | .ldF _ => [.index]
  | .ldB _ | .ldMemVx _ => [.mem]
  | .ldDtVx _ => [.delay]
  | .ldStVx _ => [.sound]

/-- The registers an instruction may write: its destination, and `VF` where R24 makes it the flag (R22). -/
def mayWriteReg (i : Instr) (r : Nibble) : Prop :=
  match i with
  | .ldImm x _ | .addImm x _ | .ldReg x _ | .orReg x _ | .andReg x _ | .xorReg x _ | .rnd x _ | .ldVxDt x | .ldVxK x => r = x
  | .addReg x _ | .sub x _ | .shr x _ | .subn x _ | .shl x _ => r = x ∨ r = 0xF#4
  | .drw _ _ _ => r = 0xF#4
  | .ldVxMem x => r.toNat ≤ x.toNat
  | .cls | .ret | .sys _ | .jp _ | .call _ | .seImm _ _ | .sneImm _ _ | .seReg _ _ | .sneReg _ _ | .ldI _ | .jpV0 _ | .skp _
  | .sknp _ | .ldDtVx _ | .ldStVx _ | .addI _ | .ldF _ | .ldB _ | .ldMemVx _ => False

/-- How many bytes from `I` on an instruction stores (20_memory.md R62). -/
def storedBytes : Instr → Nat
  | .ldB _ => 3
  | .ldMemVx x => x.toNat + 1
  | .cls | .ret | .sys _ | .jp _ | .call _ | .seImm _ _ | .sneImm _ _ | .seReg _ _ | .ldImm _ _ | .addImm _ _ | .ldReg _ _
  | .orReg _ _ | .andReg _ _ | .xorReg _ _ | .addReg _ _ | .sub _ _ | .shr _ _ | .subn _ _ | .shl _ _ | .sneReg _ _
  | .ldI _ | .jpV0 _ | .rnd _ _ | .drw _ _ _ | .skp _ | .sknp _ | .ldVxDt _ | .ldVxK _ | .ldDtVx _ | .ldStVx _
  | .addI _ | .ldF _ | .ldVxMem _ => 0

/-- Bit of the sprite drawn from `I` in `s` with `n` rows at (`cx`, `cy`) that falls on the pixel (`px`, `py`) is set:
row `r` and column `c` of the sprite, most significant bit leftmost, wrapped per pixel (R134, R135). -/
def SpriteCovers (s : State) (cx cy n px py : Nat) : Prop :=
  ∃ r c, r < n ∧ c < 8 ∧ (s.readMem (s.I.toNat + r)).getLsbD (7 - c) = true ∧ (cx + c) % 64 = px ∧ (cy + r) % 32 = py

/-- The fault record is empty exactly while the engine runs, and its code is one of R250's; a fault leaves `pc` either at the
faulting address (fetch and LoadError, recorded opcode 0) or two past it (R35, R250, R251). -/
def RecordOk (s : State) : Prop :=
  match s.run with
  | .running => s.faultCode = 0 ∧ s.faultPc = 0 ∧ s.faultOpcode = 0 ∧ s.faultInfo = 0
  | .faulted => s.faultCode ≠ 0 ∧ s.faultCode.toNat ≤ 6 ∧ (s.pc = s.faultPc + 2 ∨ (s.pc = s.faultPc ∧ s.faultOpcode = 0))

/-- The invariant of every run: memory is canonical, the fault record is sound, `pc` is at most the largest `Bnnn` target
0x10FE (R154), and every valid return address is at most 0x1000 (R150). -/
structure Inv (s : State) : Prop where
  memory : Memory.wf s.mem
  record : RecordOk s
  pcBound : s.pc.toNat ≤ 0x10FE
  returns : ∀ k : Fin Config.stackDepth, k.val < s.sp.val → (s.stack[k]).toNat ≤ 0x1000

/-- "Halted" of R295: running, with a jump to itself at `pc`. -/
def Halted (s : State) : Prop :=
  s.run = .running ∧ s.pc.toNat ≤ 0xFFE ∧ s.readOpcode s.pc.toNat = 0x1000#16 ||| s.pc

end Sys2Proof.Machine
end

