-- ==== Sys2Proof/Certificates/Slice0/Obligations.lean ====
section
/-! DEFINITION. The statements for the provers, each from the spec's numbered rules. `exec` is entered with `pc = pc_f + 2`
(40_engine_cycle.md R103), so "pc unchanged" says that the instruction ends at the next one. -/

open Sys2Proof Sys2Proof.Machine

/-! ### Encoding (30_encoding.md) -/

/-- R81: every field is the bits the rule gives it. -/
def Obligations.OpcodeFields : Prop :=
  ∀ w : Word, (fieldOp w).toNat = w.toNat / 4096 ∧ (fieldX w).toNat = w.toNat / 256 % 16 ∧
    (fieldY w).toNat = w.toNat / 16 % 16 ∧ (fieldN w).toNat = w.toNat % 16 ∧ (fieldNN w).toNat = w.toNat % 256 ∧
    (fieldNNN w).toNat = w.toNat % 4096

/-- R80, R82 to R85: decoding gives back every well-formed instruction from its encoding, as a word and as two bytes with the
bytes after them left over. -/
def Obligations.DecodeOfEncode : Prop :=
  ∀ i : Instr, i.wellFormed = true →
    decodeWord (encode i) = .ok i ∧ ∀ rest, decodeBytes (encodeBytes i ++ rest) = .ok (i, rest)

/-- R84, R85: a word that decodes is the encoding of the instruction it decodes to, which is well-formed, so every word has
one meaning and no bit of it is lost. -/
def Obligations.EncodeOfDecode : Prop :=
  ∀ (w : Word) (i : Instr), decodeWord w = .ok i → encode i = w ∧ i.wellFormed = true

/-- R85, R86: a word is illegal exactly when it matches no row of the table under the row's mask. -/
def Obligations.IllegalExactlyOutsideTheTable : Prop :=
  ∀ w : Word, decodeWord w = .error (.illegal w) ↔ ∀ i : Instr, w &&& (opcodeRow i).mask ≠ (opcodeRow i).pat

/-- R86's table: the illegal words, group by group. -/
def Obligations.IllegalWordsByGroup : Prop :=
  ∀ w : Word, decodeWord w = .error (.illegal w) ↔
    ((fieldOp w = 0x5#4 ∨ fieldOp w = 0x9#4) ∧ fieldN w ≠ 0#4) ∨
    (fieldOp w = 0x8#4 ∧ fieldN w ∈ [0x8#4, 0x9#4, 0xA#4, 0xB#4, 0xC#4, 0xD#4, 0xF#4]) ∨
    (fieldOp w = 0xE#4 ∧ fieldNN w ∉ [0x9E#8, 0xA1#8]) ∨
    (fieldOp w = 0xF#4 ∧ fieldNN w ∉ [0x07#8, 0x0A#8, 0x15#8, 0x18#8, 0x1E#8, 0x29#8, 0x33#8, 0x55#8, 0x65#8])

/-- 95_test_vectors.md 2.1, a word of every family: the words written out there decode to the instructions given there. -/
def Obligations.SampleWordsDecode : Prop :=
  decodeWord 0x00E0#16 = .ok .cls ∧ decodeWord 0x00EE#16 = .ok .ret ∧ decodeWord 0x0123#16 = .ok (.sys 0x123) ∧
  decodeWord 0x2ABC#16 = .ok (.call 0xABC) ∧ decodeWord 0x3A5C#16 = .ok (.seImm 0xA 0x5C) ∧
  decodeWord 0x8AB7#16 = .ok (.subn 0xA 0xB) ∧ decodeWord 0xDAB7#16 = .ok (.drw 0xA 0xB 7) ∧
  decodeWord 0xEAA1#16 = .ok (.sknp 0xA) ∧ decodeWord 0xFA33#16 = .ok (.ldB 0xA) ∧
  decodeWord 0x5121#16 = .error (.illegal 0x5121)

/-! ### The engine cycle (40_engine_cycle.md) -/

/-- R101 to R103: a running engine whose two bytes at `pc` decode to an instruction executes it with `pc` advanced by 2, at
any alignment (R64). -/
def Obligations.StepRunsTheDecodedInstruction : Prop :=
  ∀ (s : State) (i : Instr), s.run = .running → s.pc.toNat ≤ 0xFFE →
    decodeWord (s.readMem s.pc.toNat ++ s.readMem (s.pc.toNat + 1)) = .ok i →
    step s = exec i { s with pc := s.pc + 2 }

/-- R102, R251 (the bound is the spec's decision D6): a fetch that reaches past 0xFFF is taken as MemoryOutOfRange with the
lowest out-of-range address, `pc` unchanged and recorded opcode 0. -/
def Obligations.FetchPastMemoryFaults : Prop :=
  ∀ s : State, s.run = .running → 0xFFE < s.pc.toNat →
    ∃ t, step s = .next t ∧ FaultTaken .memoryOutOfRange s.pc 0 (if s.pc = 0xFFF#16 then 0x1000#16 else s.pc) s t

/-- R253, R86 (the record's layout is the spec's decision D4): an illegal opcode is taken as IllegalInstruction with the
opcode and its address recorded and `pc` past it. -/
def Obligations.IllegalOpcodeFaults : Prop :=
  ∀ (s : State) (w : Word), s.run = .running → s.pc.toNat ≤ 0xFFE →
    w = s.readMem s.pc.toNat ++ s.readMem (s.pc.toNat + 1) → decodeWord w = .error (.illegal w) →
    ∃ t, step s = .next t ∧ t.pc = s.pc + 2 ∧
      FaultTaken .illegalInstruction s.pc w 0 { s with pc := s.pc + 2 } t

/-- R107, R240, R241, R261 (the spec's decision D16): no operation but construct changes a faulted engine. -/
def Obligations.FaultedEngineIsFinal : Prop :=
  ∀ s : State, s.run = .faulted →
    step s = .next s ∧ ∀ q : Requests, q.construct = none → cycle q s = .next s

/-- R108: step is total. Every step of every state answers a next state, faults included (log entry 5). -/
def Obligations.StepAlwaysAnswersANextState : Prop := ∀ s : State, ∃ t, step s = .next t

/-- R295 (marked derived there): a step of a halted engine leaves the state unchanged. -/
def Obligations.HaltedEngineStaysPut : Prop := ∀ s : State, Halted s → step s = .next s

/-- R112 (the spec's decision D29): whichever requests a cycle without construct makes, they are applied as key event (`a`),
clear_redraw (`b`), step (`c`), tick (`d`), each to the state the one before left, and a request not made changes nothing; a
construct overrides them all. -/
def Obligations.RequestOrderInACycle : Prop :=
  (∀ (s : State) (q : Requests), q.construct = none → ∃ a b c d : State,
    (∀ k p, q.key = some (k, p) → a = s.deliverKey k p) ∧ (q.key = none → a = s) ∧
    (q.clearRedraw = true → b = a.clearRedraw) ∧ (q.clearRedraw = false → b = a) ∧
    (q.step = true → step b = .next c) ∧ (q.step = false → c = b) ∧
    (q.tick = true → d = c.tickTimers) ∧ (q.tick = false → d = c) ∧
    cycle q s = .next d) ∧
  (∀ (s : State) (q : Requests) (rom : List Byte), q.construct = some rom → cycle q s = .next (s.construct rom))

/-! ### Invariants -/

/-- The invariant `Inv` (canonical memory; a fault record exactly when faulted, R35, R250, R251; `pc` at most 0x10FE, R154;
return addresses at most 0x1000, R150) is kept by every step of every state. -/
def Obligations.StepKeepsInv : Prop := ∀ s t : State, Inv s → step s = .next t → Inv t

/-- The invariant holds after reset. -/
def Obligations.ResetHasInv : Prop := Inv State.reset

/-- Every cycle of host requests keeps the invariant, and construct gives it from any state with any program (R280, R285). -/
def Obligations.HostOperationsKeepInv : Prop :=
  (∀ (q : Requests) (s t : State), Inv s → cycle q s = .next t → Inv t) ∧
  (∀ (s : State) (rom : List Byte), Inv (s.construct rom))

/-- Two canonical memories that read the same at every address are the same data. -/
def Obligations.CanonicalMemoryIsUnique : Prop :=
  ∀ m m' : Memory, Memory.wf m → Memory.wf m' → (∀ a, memRead m a = memRead m' a) → m = m'

/-! ### Reset (70_reset_and_hazards.md) -/

/-- R281, R283, R31 (keys, pixels, redraw, run, slots and record are the spec's decisions D14 and D4, FONT its D21): what
reset leaves. The program is absent (log entry 4). -/
def Obligations.ResetValues : Prop :=
  State.reset.pc = 0x200 ∧ (∀ r, State.reset.readReg r = 0) ∧ State.reset.I = 0 ∧ State.reset.sp = 0 ∧
  State.reset.DT = 0 ∧ State.reset.ST = 0 ∧ (∀ k : Fin 16, State.reset.stack[k] = 0) ∧
  (∀ k, State.reset.keyDown k = false) ∧ (∀ x y, State.reset.pixel x y = false) ∧ State.reset.redraw = false ∧
  State.reset.run = .running ∧ State.reset.faultCode = 0 ∧ State.reset.faultPc = 0 ∧ State.reset.faultOpcode = 0 ∧
  State.reset.faultInfo = 0 ∧
  ∀ a, State.reset.readMem a = if 0x050 ≤ a ∧ a < 0x0A0 then font.getD (a - 0x050) 0 else 0

/-- R280, R281, R285 (decisions D14, D28): construct with 1 to 3584 bytes puts every piece of state at its reset value,
whatever it was, and the program at 0x200; the parameters and the position in the random source, which are no state of the
spec's, stay (log entries 1 and 2). -/
def Obligations.ConstructLoadsTheProgram : Prop :=
  ∀ (s : State) (rom : List Byte), 1 ≤ rom.length → rom.length ≤ 3584 →
    Unchanged [.mem] { State.reset with params := s.params, draws := s.draws } (s.construct rom) ∧
    ∀ a, (s.construct rom).readMem a =
      if h : 0x200 ≤ a ∧ a < 0x200 + rom.length then rom[a - 0x200] else State.reset.readMem a

/-- R258, R282 (decision D15): construct with no byte or more than 3584 leaves the reset state without the program, faulted
with LoadError. -/
def Obligations.ConstructRefusesBadLength : Prop :=
  ∀ (s : State) (rom : List Byte), rom.length = 0 ∨ 3584 < rom.length →
    FaultTaken .loadError 0x200 0 0 { State.reset with params := s.params, draws := s.draws } (s.construct rom)

/-! ### Frames and faults of every instruction -/

/-- R105, R20, R259: an instruction whose own check does not fire answers a next state that differs only in the pieces its
rule names. -/
def Obligations.ExecWritesOnlyItsPieces : Prop :=
  ∀ (i : Instr) (s : State), ownFault i s = none → Completes i s fun t => Unchanged (mayWrite i) s t

/-- R22, R24: no instruction writes a register but its destinations, and VF only where it is the flag (that OR, AND and XOR
leave VF alone is the spec's decision D11). -/
def Obligations.ExecWritesOnlyItsRegisters : Prop :=
  ∀ (i : Instr) (s t : State) (r : Nibble), exec i s = .next t → ¬ mayWriteReg i r → t.readReg r = s.readReg r

/-- R62, R65: no instruction changes a byte of memory but those it stores from I on. -/
def Obligations.ExecStoresOnlyItsBytes : Prop :=
  ∀ (i : Instr) (s t : State) (a : Nat), exec i s = .next t →
    (a < s.I.toNat ∨ s.I.toNat + storedBytes i ≤ a) → t.readMem a = s.readMem a

/-- R251, R259, R11 (decisions D3, D4, D5, D13): where an instruction's own check fires, its fault is taken, with the address
`pc - 2`, the opcode and the info recorded, and nothing else is changed. -/
def Obligations.ExecFaultIsPrecise : Prop :=
  ∀ (i : Instr) (s : State) (e : FaultKind) (n : Word), ownFault i s = some (e, n) →
    ∃ t, exec i s = .next t ∧ FaultTaken e (s.pc - 2) (encode i) n s t

/-- R251 at the level of the step: the record holds the address the instruction was fetched from and the very opcode fetched,
and `pc` is two past it. -/
def Obligations.StepRecordsTheFetchedOpcode : Prop :=
  ∀ (s : State) (w : Word) (i : Instr) (e : FaultKind) (n : Word), s.run = .running → s.pc.toNat ≤ 0xFFE →
    w = s.readMem s.pc.toNat ++ s.readMem (s.pc.toNat + 1) → decodeWord w = .ok i →
    ownFault i { s with pc := s.pc + 2 } = some (e, n) →
    ∃ t, step s = .next t ∧ FaultTaken e s.pc w n { s with pc := s.pc + 2 } t

/-- R180 (decision D10): the two values of VF_ORDER differ only for SHR and SHL with x = 0xF. -/
def Obligations.VfOrderMattersOnlyForShiftsOfVF : Prop :=
  ∀ (i : Instr) (s : State) (o : Config.VfOrder),
    (∀ x y, i = .shr x y ∨ i = .shl x y → x ≠ 0xF#4) →
    exec i { s with params := { s.params with vfOrder := o } } =
      mapNext (fun t => { t with params := { t.params with vfOrder := o } }) (exec i s)

/-! ### Display (41_display.md) -/

/-- R133: 00E0, and that word alone, clears every pixel and sets the redraw flag. -/
def Obligations.ClsClears : Prop :=
  (∀ w : Word, w &&& 0xFFFF#16 = 0x00E0#16 → decodeWord w = .ok .cls) ∧
  ∀ s : State, Completes .cls s fun t =>
    (∀ x y, t.pixel x y = false) ∧ t.redraw = true ∧ Unchanged [.pixels, .redraw] s t

/-- R134, R135 (range check and n = 0: decisions D5, D25): with its rows in memory, a draw flips exactly the pixels a set
sprite bit falls on, wrapped per pixel, with the coordinates VF had before; VF tells a collision; redraw is set. -/
def Obligations.DrwFlipsTheSpritePixels : Prop :=
  ∀ (x y n : Nibble) (s : State), n.toNat = 0 ∨ s.I.toNat + n.toNat - 1 ≤ 0xFFF →
    Completes (.drw x y n) s fun t =>
      (∀ px py, px < 64 → py < 32 →
        (SpriteCovers s (s.readReg x).toNat (s.readReg y).toNat n.toNat px py → t.pixel px py = !s.pixel px py) ∧
        (¬ SpriteCovers s (s.readReg x).toNat (s.readReg y).toNat n.toNat px py → t.pixel px py = s.pixel px py)) ∧
      ((∃ px py, px < 64 ∧ py < 32 ∧ SpriteCovers s (s.readReg x).toNat (s.readReg y).toNat n.toNat px py ∧
          s.pixel px py = true) → t.readReg 0xF = 1) ∧
      ((¬ ∃ px py, px < 64 ∧ py < 32 ∧ SpriteCovers s (s.readReg x).toNat (s.readReg y).toNat n.toNat px py ∧
          s.pixel px py = true) → t.readReg 0xF = 0) ∧
      t.redraw = true ∧ RegsUnchanged [0xF] s t ∧ Unchanged [.pixels, .redraw, .regs] s t

/-- R131, R134 and the source's property quoted at S7: the same draw twice restores every pixel, and its second collision flag
says whether a pixel was set the first time. -/
def Obligations.DrwTwiceRestoresThePixels : Prop :=
  ∀ (x y n : Nibble) (s t : State), x ≠ 0xF#4 → y ≠ 0xF#4 →
    (n.toNat = 0 ∨ s.I.toNat + n.toNat - 1 ≤ 0xFFF) → exec (.drw x y n) s = .next t →
    Completes (.drw x y n) t fun u =>
      (∀ px py, u.pixel px py = s.pixel px py) ∧
      (u.readReg 0xF = 1 ↔ ∃ px py, px < 64 ∧ py < 32 ∧
        SpriteCovers s (s.readReg x).toNat (s.readReg y).toNat n.toNat px py ∧ s.pixel px py = false)

/-! ### Control transfer (42_control_flow.md) -/

/-- R151, R153, R27 (the bound is the spec's decision D3): CALL and SYS push the address after them and jump; on a full stack
they take StackOverflow. -/
def Obligations.CallAndSysPush : Prop :=
  ∀ (nnn : Addr12) (i : Instr) (s : State), i = .call nnn ∨ i = .sys nnn →
    (∀ h : s.sp.val < 16, Completes i s fun t =>
      t.pc.toNat = nnn.toNat ∧ t.sp.val = s.sp.val + 1 ∧ t.stack[s.sp.val] = s.pc ∧
      (∀ k : Fin 16, k.val ≠ s.sp.val → t.stack[k] = s.stack[k]) ∧ Unchanged [.pc, .sp, .stack] s t) ∧
    (s.sp.val = 16 → ∃ t, exec i s = .next t ∧ FaultTaken .stackOverflow (s.pc - 2) (encode i) 16 s t)

/-- R150, R254, R27 (the record is the spec's decision D4): RET pops the top slot into `pc` and leaves the slots; on an empty
stack it takes StackUnderflow. -/
def Obligations.RetPops : Prop :=
  ∀ s : State,
    (∀ h : 0 < s.sp.val, Completes .ret s fun t =>
      t.pc = s.stack[s.sp.val - 1]'(by have := s.sp.isLt; omega) ∧ t.sp.val = s.sp.val - 1 ∧ Unchanged [.pc, .sp] s t) ∧
    (s.sp.val = 0 → ∃ t, exec .ret s = .next t ∧ FaultTaken .stackUnderflow (s.pc - 2) 0x00EE 0 s t)

/-- R150, R151, R153: a return right after a call comes back to the address after the call, at the old depth, with every
stack slot but the one the call wrote, and everything else, as it was. -/
def Obligations.ReturnUndoesCall : Prop :=
  ∀ (nnn : Addr12) (i : Instr) (s t : State), i = .call nnn ∨ i = .sys nnn → s.sp.val < 16 → exec i s = .next t →
    Completes .ret t fun u =>
      u.pc = s.pc ∧ u.sp = s.sp ∧ (∀ k : Fin 16, k.val ≠ s.sp.val → u.stack[k] = s.stack[k]) ∧ Unchanged [.stack] s u

/-- R152: a jump goes to `nnn`, whatever its alignment, and changes nothing else. -/
def Obligations.JpJumps : Prop :=
  (∀ w : Word, w &&& 0xF000#16 = 0x1000#16 → decodeWord w = .ok (.jp (fieldNNN w))) ∧
  ∀ (nnn : Addr12) (s : State), Completes (.jp nnn) s fun t => t.pc.toNat = nnn.toNat ∧ Unchanged [.pc] s t

/-- R154 under both values of the OPEN parameter BNNN_MODE (decision D7): the full sum without wrap, or its low 8 bits. -/
def Obligations.JpV0Jumps : Prop :=
  (∀ w : Word, w &&& 0xF000#16 = 0xB000#16 → decodeWord w = .ok (.jpV0 (fieldNNN w))) ∧
  ∀ (nnn : Addr12) (s : State), Completes (.jpV0 nnn) s fun t =>
    (s.params.bnnnMode = .full → t.pc.toNat = nnn.toNat + (s.readReg 0).toNat) ∧
    (s.params.bnnnMode = .trunc8 → t.pc.toNat = (nnn.toNat + (s.readReg 0).toNat) % 256) ∧ Unchanged [.pc] s t

/-! ### Skips (43_skips.md) -/

/-- R171, R172: 3xnn and 4xnn compare V[x] with nn and skip on equal and on different. -/
def Obligations.ImmediateSkips : Prop :=
  (∀ w : Word, w &&& 0xF000#16 = 0x3000#16 → decodeWord w = .ok (.seImm (fieldX w) (fieldNN w))) ∧
  (∀ w : Word, w &&& 0xF000#16 = 0x4000#16 → decodeWord w = .ok (.sneImm (fieldX w) (fieldNN w))) ∧
  ∀ (x : Nibble) (nn : Byte) (s : State),
    Completes (.seImm x nn) s (fun t =>
      t.pc = (if (s.readReg x).toNat = nn.toNat then s.pc + 2 else s.pc) ∧ Unchanged [.pc] s t) ∧
    Completes (.sneImm x nn) s (fun t =>
      t.pc = (if (s.readReg x).toNat ≠ nn.toNat then s.pc + 2 else s.pc) ∧ Unchanged [.pc] s t)

/-- R173, R174: 5xy0 and 9xy0 compare V[x] with V[y] and skip on equal and on different; with x = y the first always skips and
the second never; the words of the two groups with another last digit are illegal, and step takes IllegalInstruction for them
(its code and its record are R250, R253 and the spec's decision D4). -/
def Obligations.RegisterSkips : Prop :=
  (∀ w : Word, w &&& 0xF00F#16 = 0x5000#16 → decodeWord w = .ok (.seReg (fieldX w) (fieldY w))) ∧
  (∀ w : Word, w &&& 0xF00F#16 = 0x9000#16 → decodeWord w = .ok (.sneReg (fieldX w) (fieldY w))) ∧
  (∀ w : Word, w &&& 0xF000#16 = 0x5000#16 ∨ w &&& 0xF000#16 = 0x9000#16 → w &&& 0x000F#16 ≠ 0 →
    decodeWord w = .error (.illegal w) ∧
    ∀ s : State, s.run = .running → s.pc.toNat ≤ 0xFFE → s.readMem s.pc.toNat ++ s.readMem (s.pc.toNat + 1) = w →
      ∃ t, step s = .next t ∧ t.run = .faulted ∧ t.faultCode = 2 ∧ t.faultOpcode = w) ∧
  ∀ (x y : Nibble) (s : State),
    Completes (.seReg x y) s (fun t =>
      t.pc = (if (s.readReg x).toNat = (s.readReg y).toNat then s.pc + 2 else s.pc) ∧ Unchanged [.pc] s t) ∧
    Completes (.sneReg x y) s (fun t =>
      t.pc = (if (s.readReg x).toNat ≠ (s.readReg y).toNat then s.pc + 2 else s.pc) ∧ Unchanged [.pc] s t) ∧
    Completes (.seReg x x) s (fun t => t.pc = s.pc + 2) ∧ Completes (.sneReg x x) s (fun t => t.pc = s.pc)

/-! ### Registers and arithmetic (44_alu.md) -/

/-- R182, R183: 6xnn loads nn, 7xnn adds it mod 256; neither writes a flag, so every register but V[x] stays. -/
def Obligations.ImmediateLoadAndAdd : Prop :=
  (∀ w : Word, w &&& 0xF000#16 = 0x6000#16 → decodeWord w = .ok (.ldImm (fieldX w) (fieldNN w))) ∧
  (∀ w : Word, w &&& 0xF000#16 = 0x7000#16 → decodeWord w = .ok (.addImm (fieldX w) (fieldNN w))) ∧
  ∀ (x : Nibble) (nn : Byte) (s : State),
    Completes (.ldImm x nn) s (fun t => t.readReg x = nn ∧ RegsUnchanged [x] s t ∧ Unchanged [.regs] s t) ∧
    Completes (.addImm x nn) s (fun t =>
      (t.readReg x).toNat = ((s.readReg x).toNat + nn.toNat) % 256 ∧ RegsUnchanged [x] s t ∧ Unchanged [.regs] s t)

/-- R184: 8xy0 copies V[y] to V[x], with no effect where x = y. -/
def Obligations.RegisterCopy : Prop :=
  (∀ w : Word, w &&& 0xF00F#16 = 0x8000#16 → decodeWord w = .ok (.ldReg (fieldX w) (fieldY w))) ∧
  ∀ (x y : Nibble) (s : State),
    Completes (.ldReg x y) s (fun t => t.readReg x = s.readReg y ∧ RegsUnchanged [x] s t ∧ Unchanged [.regs] s t) ∧
    exec (.ldReg x x) s = .next s

/-- R185, R186, R187: bit by bit OR, AND and XOR; that VF stays (unless x = 0xF) is the spec's decision D11. -/
def Obligations.BitwiseOperations : Prop :=
  ∀ (x y : Nibble) (s : State),
    Completes (.orReg x y) s (fun t =>
      (∀ j, j < 8 → (t.readReg x).getLsbD j = ((s.readReg x).getLsbD j || (s.readReg y).getLsbD j)) ∧
      RegsUnchanged [x] s t ∧ Unchanged [.regs] s t) ∧
    Completes (.andReg x y) s (fun t =>
      (∀ j, j < 8 → (t.readReg x).getLsbD j = ((s.readReg x).getLsbD j && (s.readReg y).getLsbD j)) ∧
      RegsUnchanged [x] s t ∧ Unchanged [.regs] s t) ∧
    Completes (.xorReg x y) s (fun t =>
      (∀ j, j < 8 → (t.readReg x).getLsbD j = ((s.readReg x).getLsbD j ^^ (s.readReg y).getLsbD j)) ∧
      RegsUnchanged [x] s t ∧ Unchanged [.regs] s t)

/-- R188: 8xy4 adds mod 256 and VF ends as the carry, under both values of VF_ORDER and for every x and y. -/
def Obligations.AddWithCarry : Prop :=
  (∀ w : Word, w &&& 0xF00F#16 = 0x8004#16 → decodeWord w = .ok (.addReg (fieldX w) (fieldY w))) ∧
  ∀ (x y : Nibble) (s : State), Completes (.addReg x y) s fun t =>
    (x ≠ 0xF#4 → (t.readReg x).toNat = ((s.readReg x).toNat + (s.readReg y).toNat) % 256) ∧
    t.readReg 0xF = (if 255 < (s.readReg x).toNat + (s.readReg y).toNat then 1 else 0) ∧
    RegsUnchanged [x, 0xF] s t ∧ Unchanged [.regs] s t

/-- R189, R191: 8xy5 and 8xy7 subtract mod 256 and VF ends as "no borrow", under both values of VF_ORDER and for every x
and y. -/
def Obligations.SubtractWithBorrow : Prop :=
  (∀ w : Word, w &&& 0xF00F#16 = 0x8005#16 → decodeWord w = .ok (.sub (fieldX w) (fieldY w))) ∧
  (∀ w : Word, w &&& 0xF00F#16 = 0x8007#16 → decodeWord w = .ok (.subn (fieldX w) (fieldY w))) ∧
  ∀ (x y : Nibble) (s : State),
    Completes (.sub x y) s (fun t =>
      (x ≠ 0xF#4 → (t.readReg x).toNat = ((s.readReg x).toNat + 256 - (s.readReg y).toNat) % 256) ∧
      t.readReg 0xF = (if (s.readReg y).toNat ≤ (s.readReg x).toNat then 1 else 0) ∧
      RegsUnchanged [x, 0xF] s t ∧ Unchanged [.regs] s t) ∧
    Completes (.subn x y) s (fun t =>
      (x ≠ 0xF#4 → (t.readReg x).toNat = ((s.readReg y).toNat + 256 - (s.readReg x).toNat) % 256) ∧
      t.readReg 0xF = (if (s.readReg x).toNat ≤ (s.readReg y).toNat then 1 else 0) ∧
      RegsUnchanged [x, 0xF] s t ∧ Unchanged [.regs] s t)

/-- R190: 8xy6 shifts V[x] right by one and VF is the bit shifted out; with x = 0xF, VF is that bit under FlagLast and 0 under
TableOrder; y is ignored. -/
def Obligations.ShiftRight : Prop :=
  (∀ w : Word, w &&& 0xF00F#16 = 0x8006#16 → decodeWord w = .ok (.shr (fieldX w) (fieldY w))) ∧
  ∀ (x y : Nibble) (s : State), Completes (.shr x y) s fun t =>
    (x ≠ 0xF#4 → (t.readReg x).toNat = (s.readReg x).toNat / 2) ∧
    (x ≠ 0xF#4 ∨ s.params.vfOrder = .flagLast → (t.readReg 0xF).toNat = (s.readReg x).toNat % 2) ∧
    (x = 0xF#4 → s.params.vfOrder = .tableOrder → t.readReg 0xF = 0) ∧
    (∀ y', exec (.shr x y') s = .next t) ∧ RegsUnchanged [x, 0xF] s t ∧ Unchanged [.regs] s t

/-- R192: 8xyE shifts V[x] left by one mod 256 and VF is the bit shifted out; with x = 0xF, VF is that bit f under FlagLast and
2 f under TableOrder; y is ignored. -/
def Obligations.ShiftLeft : Prop :=
  (∀ w : Word, w &&& 0xF00F#16 = 0x800E#16 → decodeWord w = .ok (.shl (fieldX w) (fieldY w))) ∧
  ∀ (x y : Nibble) (s : State), Completes (.shl x y) s fun t =>
    (x ≠ 0xF#4 → (t.readReg x).toNat = (2 * (s.readReg x).toNat) % 256) ∧
    (x ≠ 0xF#4 ∨ s.params.vfOrder = .flagLast → t.readReg 0xF = (if 128 ≤ (s.readReg x).toNat then 1 else 0)) ∧
    (x = 0xF#4 → s.params.vfOrder = .tableOrder → t.readReg 0xF = (if 128 ≤ (s.readReg x).toNat then 2 else 0)) ∧
    (∀ y', exec (.shl x y') s = .next t) ∧ RegsUnchanged [x, 0xF] s t ∧ Unchanged [.regs] s t

/-- R193, R38 (decision D20): Cxnn writes the next random byte under the mask nn, whatever the byte; no bit outside nn is set;
one byte of the source is consumed. That the byte is `Config.rndByte` at the counter `draws` is the model's choice (the free
value of log entry 1). -/
def Obligations.RandomByteMasked : Prop :=
  (∀ w : Word, w &&& 0xF000#16 = 0xC000#16 → decodeWord w = .ok (.rnd (fieldX w) (fieldNN w))) ∧
  ∀ (x : Nibble) (nn : Byte) (s : State), Completes (.rnd x nn) s fun t =>
    t.readReg x = Config.rndByte s.draws &&& nn ∧ t.readReg x &&& ~~~nn = 0 ∧ t.draws = s.draws + 1 ∧
    RegsUnchanged [x] s t ∧ Unchanged [.regs, .draws] s t

/-! ### Index register and memory (45_index_memory.md) -/

/-- R210: Annn loads I with nnn, at most 0xFFF. -/
def Obligations.LoadIndex : Prop :=
  (∀ w : Word, w &&& 0xF000#16 = 0xA000#16 → decodeWord w = .ok (.ldI (fieldNNN w))) ∧
  ∀ (nnn : Addr12) (s : State), Completes (.ldI nnn) s fun t =>
    t.I.toNat = nnn.toNat ∧ t.I.toNat ≤ 0xFFF ∧ Unchanged [.index] s t

/-- R211 (the wrap at 2^16 is the spec's decision D26) and R212 under both values of the OPEN parameter FX29_BASE (decisions
D8, D24): Fx1E adds V[x] to I with no flag, Fx29 points I at FX29_BASE + 5 V[x] with V[x] whole. -/
def Obligations.IndexArithmetic : Prop :=
  ∀ (x : Nibble) (s : State),
    Completes (.addI x) s (fun t =>
      t.I.toNat = (s.I.toNat + (s.readReg x).toNat) % 65536 ∧ Unchanged [.index] s t) ∧
    Completes (.ldF x) s (fun t =>
      (s.params.fx29Base = .at050 → t.I.toNat = 0x050 + 5 * (s.readReg x).toNat) ∧
      (s.params.fx29Base = .at000 → t.I.toNat = 5 * (s.readReg x).toNat) ∧ Unchanged [.index] s t)

/-- R213 (the check is the spec's decision D5): with I + 2 in memory, Fx33 stores the hundreds, tens and units of V[x] at I,
I + 1 and I + 2, and every other byte, and I, stay. -/
def Obligations.StoreDecimalDigits : Prop :=
  ∀ (x : Nibble) (s : State), Memory.wf s.mem → s.I.toNat + 2 ≤ 0xFFF → Completes (.ldB x) s fun t =>
    (t.readMem s.I.toNat).toNat = (s.readReg x).toNat / 100 ∧
    (t.readMem (s.I.toNat + 1)).toNat = (s.readReg x).toNat / 10 % 10 ∧
    (t.readMem (s.I.toNat + 2)).toNat = (s.readReg x).toNat % 10 ∧
    (∀ a, a < s.I.toNat ∨ s.I.toNat + 3 ≤ a → t.readMem a = s.readMem a) ∧ Unchanged [.mem] s t

/-- R214 (that I stays is the spec's decision D12): with I + x in memory, Fx55 stores V[0] to V[x] from I on. -/
def Obligations.StoreRegisters : Prop :=
  ∀ (x : Nibble) (s : State), Memory.wf s.mem → s.I.toNat + x.toNat ≤ 0xFFF → Completes (.ldMemVx x) s fun t =>
    (∀ r : Nibble, r.toNat ≤ x.toNat → t.readMem (s.I.toNat + r.toNat) = s.readReg r) ∧
    (∀ a, a < s.I.toNat ∨ s.I.toNat + x.toNat + 1 ≤ a → t.readMem a = s.readMem a) ∧ Unchanged [.mem] s t

/-- R215 (that I stays is the spec's decision D12): with I + x in memory, Fx65 loads V[0] to V[x] from I on and leaves the
registers above. -/
def Obligations.LoadRegisters : Prop :=
  ∀ (x : Nibble) (s : State), s.I.toNat + x.toNat ≤ 0xFFF → Completes (.ldVxMem x) s fun t =>
    (∀ r : Nibble, t.readReg r = if r.toNat ≤ x.toNat then s.readMem (s.I.toNat + r.toNat) else s.readReg r) ∧
    Unchanged [.regs] s t

/-- The round trip of R215 (S8): registers stored by Fx55 come back by an Fx65 at the same I, whatever was done to the
registers in between. -/
def Obligations.StoreThenLoadRestoresRegisters : Prop :=
  ∀ (x : Nibble) (s t u : State), Memory.wf s.mem → s.I.toNat + x.toNat ≤ 0xFFF → exec (.ldMemVx x) s = .next t →
    u.mem = t.mem → u.I = t.I →
    Completes (.ldVxMem x) u fun v => ∀ r : Nibble, r.toNat ≤ x.toNat → v.readReg r = s.readReg r

/-! ### Keypad and timers (46_keypad_timers.md) -/

/-- R230, R231 (the index check is the spec's decision D13): Ex9E and ExA1 skip on the key V[x] being down and up; an index
above 15 takes KeyIndexOutOfRange with V[x] recorded. -/
def Obligations.KeySkips : Prop :=
  ∀ (x k : Nibble) (s : State),
    ((s.readReg x).toNat = k.toNat →
      Completes (.skp x) s (fun t => t.pc = (if s.keyDown k = true then s.pc + 2 else s.pc) ∧ Unchanged [.pc] s t) ∧
      Completes (.sknp x) s (fun t => t.pc = (if s.keyDown k = false then s.pc + 2 else s.pc) ∧ Unchanged [.pc] s t)) ∧
    (15 < (s.readReg x).toNat → ∀ i : Instr, i = .skp x ∨ i = .sknp x →
      ∃ t, exec i s = .next t ∧ FaultTaken .keyIndexOutOfRange (s.pc - 2) (encode i) ((s.readReg x).setWidth 16) s t)

/-- R233 (the lowest of several keys is the spec's decision D9): Fx0A takes the lowest pressed key, or, with none pressed,
rewinds `pc` by 2 and changes nothing else. -/
def Obligations.KeyWait : Prop :=
  ∀ (x k : Nibble) (s : State),
    (s.keyDown k = true → (∀ j : Nibble, j.toNat < k.toNat → s.keyDown j = false) →
      Completes (.ldVxK x) s fun t =>
        (t.readReg x).toNat = k.toNat ∧ RegsUnchanged [x] s t ∧ Unchanged [.regs] s t) ∧
    ((∀ j, s.keyDown j = false) → Completes (.ldVxK x) s fun t => t.pc = s.pc - 2 ∧ Unchanged [.pc] s t)

/-- R232, R234: Fx07 reads the delay timer as the ticks before it left it, and Fx15 loads it; a timer loaded with 0 stays
at 0. -/
def Obligations.DelayTimerAccess : Prop :=
  (∀ w : Word, w &&& 0xF0FF#16 = 0xF007#16 → decodeWord w = .ok (.ldVxDt (fieldX w))) ∧
  (∀ w : Word, w &&& 0xF0FF#16 = 0xF015#16 → decodeWord w = .ok (.ldDtVx (fieldX w))) ∧
  ∀ (x : Nibble) (s : State),
    Completes (.ldVxDt x) s (fun t => t.readReg x = s.DT ∧ RegsUnchanged [x] s t ∧ Unchanged [.regs] s t) ∧
    (s.run = .running → ∀ k, Completes (.ldVxDt x) (State.tickTimers^[k] s) fun t =>
      (t.readReg x).toNat = s.DT.toNat - k) ∧
    Completes (.ldDtVx x) s (fun t =>
      t.DT = s.readReg x ∧ Unchanged [.delay] s t ∧ (s.readReg x = 0 → ∀ k, (State.tickTimers^[k] t).DT = 0))

/-- R235: Fx18 loads the sound timer, and sound plays until as many ticks have passed as V[x] says. -/
def Obligations.SoundTimerPlays : Prop :=
  (∀ w : Word, w &&& 0xF0FF#16 = 0xF018#16 → decodeWord w = .ok (.ldStVx (fieldX w))) ∧
  ∀ (x : Nibble) (s : State), Completes (.ldStVx x) s fun t =>
    t.ST = s.readReg x ∧ Unchanged [.sound] s t ∧
    (s.run = .running → ∀ k, (State.tickTimers^[k] t).soundShouldPlay = decide (k < (s.readReg x).toNat))

/-- R240, R29 and the source's property quoted at S11 (the running case): after k ticks each timer is down by k, never below
zero, and nothing else has changed. -/
def Obligations.TicksCountDown : Prop :=
  ∀ (s : State) (k : Nat), s.run = .running →
    (State.tickTimers^[k] s).DT.toNat = s.DT.toNat - k ∧ (State.tickTimers^[k] s).ST.toNat = s.ST.toNat - k ∧
    Unchanged [.delay, .sound] s (State.tickTimers^[k] s)

/-- R241, R110 (the running case): a key event sets its key alone and twice is once; clear_redraw clears the flag alone. -/
def Obligations.KeyEventAndRedrawClear : Prop :=
  ∀ (s : State) (k : Nibble) (p : Bool), s.run = .running →
    (s.deliverKey k p).keyDown k = p ∧ (∀ j, j ≠ k → (s.deliverKey k p).keyDown j = s.keyDown j) ∧
    Unchanged [.keys] s (s.deliverKey k p) ∧ (s.deliverKey k p).deliverKey k p = s.deliverKey k p ∧
    s.clearRedraw.redraw = false ∧ Unchanged [.redraw] s s.clearRedraw
end

