-- ==== Sys2Proof/Laws/Decode.lean ====
section
/-! SUPPORT. The fields of the opcode formats, opcodes put together again from their fields, and fields under a mask. -/

namespace Sys2Proof

section Fields
variable (op x y n : Nibble) (nn : Byte) (nnn : Addr12) (w m p : Word)

@[simp] theorem fieldOp_encodeA : fieldOp (encodeA op nnn) = op := by
  ext i; simp only [fieldOp, encodeA]; grind

@[simp] theorem fieldNNN_encodeA : fieldNNN (encodeA op nnn) = nnn := by
  ext i; simp only [fieldNNN, encodeA]; grind

@[simp] theorem fieldOp_encodeXNN : fieldOp (encodeXNN op x nn) = op := by
  ext i; simp only [fieldOp, encodeXNN]; grind

@[simp] theorem fieldX_encodeXNN : fieldX (encodeXNN op x nn) = x := by
  ext i; simp only [fieldX, encodeXNN]; grind

@[simp] theorem fieldNN_encodeXNN : fieldNN (encodeXNN op x nn) = nn := by
  ext i; simp only [fieldNN, encodeXNN]; grind

@[simp] theorem fieldOp_encodeXYN : fieldOp (encodeXYN op x y n) = op := by
  ext i; simp only [fieldOp, encodeXYN]; grind

@[simp] theorem fieldX_encodeXYN : fieldX (encodeXYN op x y n) = x := by
  ext i; simp only [fieldX, encodeXYN]; grind

@[simp] theorem fieldY_encodeXYN : fieldY (encodeXYN op x y n) = y := by
  ext i; simp only [fieldY, encodeXYN]; grind

@[simp] theorem fieldN_encodeXYN : fieldN (encodeXYN op x y n) = n := by
  ext i; simp only [fieldN, encodeXYN]; grind

/-- An opcode is its `op` and its address field. -/
theorem encodeA_fields : encodeA (fieldOp w) (fieldNNN w) = w := by
  ext i; simp only [fieldOp, fieldNNN, encodeA]; grind

/-- An opcode is its `op`, `x` and low byte. -/
theorem encodeXNN_fields : encodeXNN (fieldOp w) (fieldX w) (fieldNN w) = w := by
  ext i; simp only [fieldOp, fieldX, fieldNN, encodeXNN]; grind

/-- An opcode is its four nibbles. -/
theorem encodeXYN_fields : encodeXYN (fieldOp w) (fieldX w) (fieldY w) (fieldN w) = w := by
  ext i; simp only [fieldOp, fieldX, fieldY, fieldN, encodeXYN]; grind

theorem fieldOp_and : fieldOp (w &&& m) = fieldOp w &&& fieldOp m := by
  ext i; simp only [fieldOp]; grind

theorem fieldN_and : fieldN (w &&& m) = fieldN w &&& fieldN m := by
  ext i; simp only [fieldN]; grind

theorem fieldNN_and : fieldNN (w &&& m) = fieldNN w &&& fieldNN m := by
  ext i; simp only [fieldNN]; grind

/-- A word that matches under a mask over all of `op` has the pattern's `op`. -/
theorem fieldOp_of_match (h : w &&& m = p) (hm : fieldOp m = 0xF#4) : fieldOp w = fieldOp p := by
  have := congrArg fieldOp h
  rwa [fieldOp_and, hm, show 0xF#4 = BitVec.allOnes 4 from rfl, BitVec.and_allOnes] at this

/-- A word that matches under a mask over all of `n` has the pattern's `n`. -/
theorem fieldN_of_match (h : w &&& m = p) (hm : fieldN m = 0xF#4) : fieldN w = fieldN p := by
  have := congrArg fieldN h
  rwa [fieldN_and, hm, show 0xF#4 = BitVec.allOnes 4 from rfl, BitVec.and_allOnes] at this

/-- A word that matches under a mask over all of `nn` has the pattern's `nn`. -/
theorem fieldNN_of_match (h : w &&& m = p) (hm : fieldNN m = 0xFF#8) : fieldNN w = fieldNN p := by
  have := congrArg fieldNN h
  rwa [fieldNN_and, hm, show 0xFF#8 = BitVec.allOnes 8 from rfl, BitVec.and_allOnes] at this

theorem and_nibble_ones : n &&& 0xF#4 = n := BitVec.and_allOnes

theorem and_byte_ones : nn &&& 0xFF#8 = nn := BitVec.and_allOnes

/-- Format A under the mask 0xF000. -/
theorem encodeA_and_F000 : encodeA op nnn &&& 0xF000#16 = encodeA op 0 := by
  rw [show 0xF000#16 = 0xF#4 ++ 0#12 from rfl, encodeA, BitVec.and_append]
  simp [encodeA, and_nibble_ones]

/-- Format XNN under the mask 0xF000. -/
theorem encodeXNN_and_F000 : encodeXNN op x nn &&& 0xF000#16 = encodeXNN op 0 0 := by
  rw [show 0xF000#16 = 0xF#4 ++ 0#4 ++ 0#8 from rfl, encodeXNN, BitVec.and_append, BitVec.and_append]
  simp [encodeXNN, and_nibble_ones]

/-- Format X under the mask 0xF0FF. -/
theorem encodeXNN_and_F0FF : encodeXNN op x nn &&& 0xF0FF#16 = encodeXNN op 0 nn := by
  rw [show 0xF0FF#16 = 0xF#4 ++ 0#4 ++ 0xFF#8 from rfl, encodeXNN, BitVec.and_append, BitVec.and_append]
  simp [encodeXNN, and_nibble_ones, and_byte_ones]

/-- Format XY under the mask 0xF00F. -/
theorem encodeXYN_and_F00F : encodeXYN op x y n &&& 0xF00F#16 = encodeXYN op 0 0 n := by
  rw [show 0xF00F#16 = 0xF#4 ++ 0#4 ++ 0#4 ++ 0xF#4 from rfl, encodeXYN, BitVec.and_append, BitVec.and_append,
    BitVec.and_append]
  simp [encodeXYN, and_nibble_ones]

/-- Format XYN under the mask 0xF000. -/
theorem encodeXYN_and_F000 : encodeXYN op x y n &&& 0xF000#16 = encodeXYN op 0 0 0 := by
  rw [show 0xF000#16 = 0xF#4 ++ 0#4 ++ 0#4 ++ 0#4 from rfl, encodeXYN, BitVec.and_append, BitVec.and_append,
    BitVec.and_append]
  simp [encodeXYN, and_nibble_ones]

/-- The two bytes of an opcode, put together, are the opcode (R61). -/
@[simp] theorem wordOfBytes_hi_lo : wordOfBytes (wordHi w) (wordLo w) = w := by
  ext i; simp only [wordOfBytes, wordHi, wordLo]; grind

end Fields

/-- The decoder's answer on a table row's bits is its answer on the word they stand for. -/
theorem decodeTableWord_eq (nbits w : Nat) : decodeTableWord nbits w = (decodeWord (tableWord nbits w)).toOption := by
  cases h : decodeWord (tableWord nbits w) <;> simp [decodeTableWord, decodeBytes, Except.map, Except.toOption, h]

end Sys2Proof
end

