-- ==== Sys2Proof/Laws/Memory.lean ====
section
/-! SUPPORT. Memory: a read after a write, the other addresses left alone, and the canonical form kept by every operation. -/

namespace Sys2Proof.Machine

/-- An address below every listed one reads as unlisted. -/
theorem memRead_of_lt_keys {m : Memory} {a : Nat} (h : ∀ c ∈ m, a < c.1) : memRead m a = unlisted a := by
  induction m with
  | nil => rfl
  | cons c m ih =>
    have hc := h c (by simp)
    simp only [memRead, if_neg (Nat.ne_of_gt hc)]
    exact ih fun d hd => h d (by simp [hd])

/-- A write leaves every other address alone. -/
theorem memRead_memWrite_ne {m : Memory} {a a' : Nat} {b : Byte} (h : a' ≠ a) :
    memRead (memWrite m a b) a' = memRead m a' := by
  induction m with
  | nil => simp only [memWrite]; split <;> simp [memRead, h.symm]
  | cons c m ih =>
    simp only [memWrite]
    split
    · split <;> simp [memRead, h.symm]
    · split
      · next ha => split <;> simp [memRead, h.symm, ← ha]
      · simp only [memRead, ih]

theorem Memory.wf_nil : Memory.wf [] := by simp [Memory.wf]

theorem Memory.wf_tail {c : Host.Cell} {m : Memory} (h : Memory.wf (c :: m)) : Memory.wf m :=
  ⟨(List.pairwise_cons.mp h.1).2, fun d hd => h.2 d (by simp [hd])⟩

/-- In a canonical memory, a read after a write to the same address gives the byte written. -/
theorem memRead_memWrite_self {m : Memory} {a : Nat} {b : Byte} (h : Memory.wf m) : memRead (memWrite m a b) a = b := by
  induction m with
  | nil => simp only [memWrite]; split <;> simp_all [memRead]
  | cons c m ih =>
    have hlt := (List.pairwise_cons.mp h.1).1
    simp only [memWrite]
    split
    · next hk =>
      have hall : ∀ d ∈ c :: m, a < d.1 := by
        intro d hd
        rcases List.mem_cons.mp hd with rfl | hd
        · exact hk
        · exact Nat.lt_trans hk (hlt d hd)
      split
      · next hb => rw [memRead_of_lt_keys hall, hb]
      · simp [memRead]
    · split
      · next ha =>
        split
        · next hb => rw [memRead_of_lt_keys (ha ▸ hlt), hb]
        · simp [memRead]
      · next hne => simp only [memRead, if_neg (Ne.symm hne), ih (Memory.wf_tail h)]

/-- A write lists no address but the old ones and its own. -/
theorem mem_memWrite {m : Memory} {a : Nat} {b : Byte} {c : Host.Cell} (h : c ∈ memWrite m a b) :
    c ∈ m ∨ (c = (a, b) ∧ b ≠ unlisted a) := by
  induction m with
  | nil =>
    simp only [memWrite] at h
    split at h <;> simp_all
  | cons d m ih =>
    simp only [memWrite] at h
    split at h
    · split at h <;> simp_all
      tauto
    · split at h
      · split at h <;> simp_all
        tauto
      · rcases List.mem_cons.mp h with rfl | h
        · simp
        · rcases ih h with h | h
          · exact .inl (by simp [h])
          · exact .inr h

/-- A write into the address space keeps the canonical form. -/
theorem memWrite_wf {m : Memory} {a : Nat} {b : Byte} (h : Memory.wf m) (ha : a < Config.memSize) :
    Memory.wf (memWrite m a b) := by
  refine ⟨?_, fun c hc => ?_⟩
  · induction m with
    | nil => simp only [memWrite]; split <;> simp
    | cons d m ih =>
      obtain ⟨hlt, hp⟩ := List.pairwise_cons.mp h.1
      simp only [memWrite]
      split
      · next hk =>
        split
        · exact h.1
        · refine List.pairwise_cons.mpr ⟨fun e he => ?_, h.1⟩
          rcases List.mem_cons.mp he with rfl | he
          · exact hk
          · exact Nat.lt_trans hk (hlt e he)
      · split
        · next hd =>
          split
          · exact hp
          · exact List.pairwise_cons.mpr ⟨hd ▸ hlt, hp⟩
        · next hge hne =>
          refine List.pairwise_cons.mpr ⟨fun e he => ?_, ih (Memory.wf_tail h)⟩
          rcases mem_memWrite he with he | ⟨rfl, -⟩
          · exact hlt e he
          · show d.1 < a
            omega
  · rcases mem_memWrite hc with hc | ⟨rfl, hb⟩
    · exact h.2 c hc
    · exact ⟨ha, hb⟩

/-- Writing bytes inside the address space keeps the canonical form. -/
theorem memWriteList_wf {bs : List Byte} {m : Memory} {a : Nat} (h : Memory.wf m) (ha : a + bs.length ≤ Config.memSize) :
    Memory.wf (memWriteList m a bs) := by
  induction bs generalizing m a with
  | nil => exact h
  | cons b bs ih =>
    simp only [List.length_cons] at ha
    exact ih (memWrite_wf h (by omega)) (by omega)

/-- Writing bytes leaves every address outside them alone. -/
theorem memRead_memWriteList_out {bs : List Byte} {m : Memory} {a a' : Nat} (h : a' < a ∨ a + bs.length ≤ a') :
    memRead (memWriteList m a bs) a' = memRead m a' := by
  induction bs generalizing m a with
  | nil => rfl
  | cons b bs ih =>
    simp only [List.length_cons] at h
    rw [memWriteList, ih (by omega), memRead_memWrite_ne (by omega)]

/-- In a canonical memory, the bytes written are the bytes read. -/
theorem memRead_memWriteList_in {bs : List Byte} {m : Memory} {a k : Nat} (h : Memory.wf m)
    (ha : a + bs.length ≤ Config.memSize) (hk : k < bs.length) : memRead (memWriteList m a bs) (a + k) = bs[k] := by
  induction bs generalizing m a k with
  | nil => simp at hk
  | cons b bs ih =>
    simp only [List.length_cons] at ha hk
    rw [memWriteList]
    cases k with
    | zero => rw [Nat.add_zero, memRead_memWriteList_out (by omega)]; exact memRead_memWrite_self h
    | succ k =>
      have := ih (m := memWrite m a b) (a := a + 1) (k := k) (memWrite_wf h (by omega)) (by omega) (by omega)
      rw [show a + (k + 1) = a + 1 + k by omega, this]
      rfl

end Sys2Proof.Machine
end

