-- ==== Sys2Proof/Laws/State.lean ====
section
/-! SUPPORT. What each named update leaves in each field of the state: one lemma per field per update. -/

namespace Sys2Proof.Machine

section WriteReg
variable (s : State) (r : Nibble) (b : Byte)
@[simp] theorem State.writeReg_mem : (s.writeReg r b).mem = s.mem := rfl
@[simp] theorem State.writeReg_V : (s.writeReg r b).V = s.V.set r.toNat b r.isLt := rfl
@[simp] theorem State.writeReg_I : (s.writeReg r b).I = s.I := rfl
@[simp] theorem State.writeReg_pc : (s.writeReg r b).pc = s.pc := rfl
@[simp] theorem State.writeReg_stack : (s.writeReg r b).stack = s.stack := rfl
@[simp] theorem State.writeReg_sp : (s.writeReg r b).sp = s.sp := rfl
@[simp] theorem State.writeReg_DT : (s.writeReg r b).DT = s.DT := rfl
@[simp] theorem State.writeReg_ST : (s.writeReg r b).ST = s.ST := rfl
@[simp] theorem State.writeReg_keys : (s.writeReg r b).keys = s.keys := rfl
@[simp] theorem State.writeReg_fb : (s.writeReg r b).fb = s.fb := rfl
@[simp] theorem State.writeReg_redraw : (s.writeReg r b).redraw = s.redraw := rfl
@[simp] theorem State.writeReg_run : (s.writeReg r b).run = s.run := rfl
@[simp] theorem State.writeReg_faultCode : (s.writeReg r b).faultCode = s.faultCode := rfl
@[simp] theorem State.writeReg_faultPc : (s.writeReg r b).faultPc = s.faultPc := rfl
@[simp] theorem State.writeReg_faultOpcode : (s.writeReg r b).faultOpcode = s.faultOpcode := rfl
@[simp] theorem State.writeReg_faultInfo : (s.writeReg r b).faultInfo = s.faultInfo := rfl
@[simp] theorem State.writeReg_params : (s.writeReg r b).params = s.params := rfl
@[simp] theorem State.writeReg_draws : (s.writeReg r b).draws = s.draws := rfl
end WriteReg

section SetI
variable (s : State) (a : Word)
@[simp] theorem State.setI_mem : (s.setI a).mem = s.mem := rfl
@[simp] theorem State.setI_V : (s.setI a).V = s.V := rfl
@[simp] theorem State.setI_I : (s.setI a).I = a := rfl
@[simp] theorem State.setI_pc : (s.setI a).pc = s.pc := rfl
@[simp] theorem State.setI_stack : (s.setI a).stack = s.stack := rfl
@[simp] theorem State.setI_sp : (s.setI a).sp = s.sp := rfl
@[simp] theorem State.setI_DT : (s.setI a).DT = s.DT := rfl
@[simp] theorem State.setI_ST : (s.setI a).ST = s.ST := rfl
@[simp] theorem State.setI_keys : (s.setI a).keys = s.keys := rfl
@[simp] theorem State.setI_fb : (s.setI a).fb = s.fb := rfl
@[simp] theorem State.setI_redraw : (s.setI a).redraw = s.redraw := rfl
@[simp] theorem State.setI_run : (s.setI a).run = s.run := rfl
@[simp] theorem State.setI_faultCode : (s.setI a).faultCode = s.faultCode := rfl
@[simp] theorem State.setI_faultPc : (s.setI a).faultPc = s.faultPc := rfl
@[simp] theorem State.setI_faultOpcode : (s.setI a).faultOpcode = s.faultOpcode := rfl
@[simp] theorem State.setI_faultInfo : (s.setI a).faultInfo = s.faultInfo := rfl
@[simp] theorem State.setI_params : (s.setI a).params = s.params := rfl
@[simp] theorem State.setI_draws : (s.setI a).draws = s.draws := rfl
end SetI

section SetPc
variable (s : State) (a : Word)
@[simp] theorem State.setPc_mem : (s.setPc a).mem = s.mem := rfl
@[simp] theorem State.setPc_V : (s.setPc a).V = s.V := rfl
@[simp] theorem State.setPc_I : (s.setPc a).I = s.I := rfl
@[simp] theorem State.setPc_pc : (s.setPc a).pc = a := rfl
@[simp] theorem State.setPc_stack : (s.setPc a).stack = s.stack := rfl
@[simp] theorem State.setPc_sp : (s.setPc a).sp = s.sp := rfl
@[simp] theorem State.setPc_DT : (s.setPc a).DT = s.DT := rfl
@[simp] theorem State.setPc_ST : (s.setPc a).ST = s.ST := rfl
@[simp] theorem State.setPc_keys : (s.setPc a).keys = s.keys := rfl
@[simp] theorem State.setPc_fb : (s.setPc a).fb = s.fb := rfl
@[simp] theorem State.setPc_redraw : (s.setPc a).redraw = s.redraw := rfl
@[simp] theorem State.setPc_run : (s.setPc a).run = s.run := rfl
@[simp] theorem State.setPc_faultCode : (s.setPc a).faultCode = s.faultCode := rfl
@[simp] theorem State.setPc_faultPc : (s.setPc a).faultPc = s.faultPc := rfl
@[simp] theorem State.setPc_faultOpcode : (s.setPc a).faultOpcode = s.faultOpcode := rfl
@[simp] theorem State.setPc_faultInfo : (s.setPc a).faultInfo = s.faultInfo := rfl
@[simp] theorem State.setPc_params : (s.setPc a).params = s.params := rfl
@[simp] theorem State.setPc_draws : (s.setPc a).draws = s.draws := rfl
end SetPc

section Advance
variable (s : State)
@[simp] theorem State.advance_mem : (s.advance).mem = s.mem := rfl
@[simp] theorem State.advance_V : (s.advance).V = s.V := rfl
@[simp] theorem State.advance_I : (s.advance).I = s.I := rfl
@[simp] theorem State.advance_pc : (s.advance).pc = s.pc + 2 := rfl
@[simp] theorem State.advance_stack : (s.advance).stack = s.stack := rfl
@[simp] theorem State.advance_sp : (s.advance).sp = s.sp := rfl
@[simp] theorem State.advance_DT : (s.advance).DT = s.DT := rfl
@[simp] theorem State.advance_ST : (s.advance).ST = s.ST := rfl
@[simp] theorem State.advance_keys : (s.advance).keys = s.keys := rfl
@[simp] theorem State.advance_fb : (s.advance).fb = s.fb := rfl
@[simp] theorem State.advance_redraw : (s.advance).redraw = s.redraw := rfl
@[simp] theorem State.advance_run : (s.advance).run = s.run := rfl
@[simp] theorem State.advance_faultCode : (s.advance).faultCode = s.faultCode := rfl
@[simp] theorem State.advance_faultPc : (s.advance).faultPc = s.faultPc := rfl
@[simp] theorem State.advance_faultOpcode : (s.advance).faultOpcode = s.faultOpcode := rfl
@[simp] theorem State.advance_faultInfo : (s.advance).faultInfo = s.faultInfo := rfl
@[simp] theorem State.advance_params : (s.advance).params = s.params := rfl
@[simp] theorem State.advance_draws : (s.advance).draws = s.draws := rfl
end Advance

section Skip
variable (s : State)
@[simp] theorem State.skip_mem : (s.skip).mem = s.mem := rfl
@[simp] theorem State.skip_V : (s.skip).V = s.V := rfl
@[simp] theorem State.skip_I : (s.skip).I = s.I := rfl
@[simp] theorem State.skip_pc : (s.skip).pc = s.pc + 2 := rfl
@[simp] theorem State.skip_stack : (s.skip).stack = s.stack := rfl
@[simp] theorem State.skip_sp : (s.skip).sp = s.sp := rfl
@[simp] theorem State.skip_DT : (s.skip).DT = s.DT := rfl
@[simp] theorem State.skip_ST : (s.skip).ST = s.ST := rfl
@[simp] theorem State.skip_keys : (s.skip).keys = s.keys := rfl
@[simp] theorem State.skip_fb : (s.skip).fb = s.fb := rfl
@[simp] theorem State.skip_redraw : (s.skip).redraw = s.redraw := rfl
@[simp] theorem State.skip_run : (s.skip).run = s.run := rfl
@[simp] theorem State.skip_faultCode : (s.skip).faultCode = s.faultCode := rfl
@[simp] theorem State.skip_faultPc : (s.skip).faultPc = s.faultPc := rfl
@[simp] theorem State.skip_faultOpcode : (s.skip).faultOpcode = s.faultOpcode := rfl
@[simp] theorem State.skip_faultInfo : (s.skip).faultInfo = s.faultInfo := rfl
@[simp] theorem State.skip_params : (s.skip).params = s.params := rfl
@[simp] theorem State.skip_draws : (s.skip).draws = s.draws := rfl
end Skip

section SetDT
variable (s : State) (b : Byte)
@[simp] theorem State.setDT_mem : (s.setDT b).mem = s.mem := rfl
@[simp] theorem State.setDT_V : (s.setDT b).V = s.V := rfl
@[simp] theorem State.setDT_I : (s.setDT b).I = s.I := rfl
@[simp] theorem State.setDT_pc : (s.setDT b).pc = s.pc := rfl
@[simp] theorem State.setDT_stack : (s.setDT b).stack = s.stack := rfl
@[simp] theorem State.setDT_sp : (s.setDT b).sp = s.sp := rfl
@[simp] theorem State.setDT_DT : (s.setDT b).DT = b := rfl
@[simp] theorem State.setDT_ST : (s.setDT b).ST = s.ST := rfl
@[simp] theorem State.setDT_keys : (s.setDT b).keys = s.keys := rfl
@[simp] theorem State.setDT_fb : (s.setDT b).fb = s.fb := rfl
@[simp] theorem State.setDT_redraw : (s.setDT b).redraw = s.redraw := rfl
@[simp] theorem State.setDT_run : (s.setDT b).run = s.run := rfl
@[simp] theorem State.setDT_faultCode : (s.setDT b).faultCode = s.faultCode := rfl
@[simp] theorem State.setDT_faultPc : (s.setDT b).faultPc = s.faultPc := rfl
@[simp] theorem State.setDT_faultOpcode : (s.setDT b).faultOpcode = s.faultOpcode := rfl
@[simp] theorem State.setDT_faultInfo : (s.setDT b).faultInfo = s.faultInfo := rfl
@[simp] theorem State.setDT_params : (s.setDT b).params = s.params := rfl
@[simp] theorem State.setDT_draws : (s.setDT b).draws = s.draws := rfl
end SetDT

section SetST
variable (s : State) (b : Byte)
@[simp] theorem State.setST_mem : (s.setST b).mem = s.mem := rfl
@[simp] theorem State.setST_V : (s.setST b).V = s.V := rfl
@[simp] theorem State.setST_I : (s.setST b).I = s.I := rfl
@[simp] theorem State.setST_pc : (s.setST b).pc = s.pc := rfl
@[simp] theorem State.setST_stack : (s.setST b).stack = s.stack := rfl
@[simp] theorem State.setST_sp : (s.setST b).sp = s.sp := rfl
@[simp] theorem State.setST_DT : (s.setST b).DT = s.DT := rfl
@[simp] theorem State.setST_ST : (s.setST b).ST = b := rfl
@[simp] theorem State.setST_keys : (s.setST b).keys = s.keys := rfl
@[simp] theorem State.setST_fb : (s.setST b).fb = s.fb := rfl
@[simp] theorem State.setST_redraw : (s.setST b).redraw = s.redraw := rfl
@[simp] theorem State.setST_run : (s.setST b).run = s.run := rfl
@[simp] theorem State.setST_faultCode : (s.setST b).faultCode = s.faultCode := rfl
@[simp] theorem State.setST_faultPc : (s.setST b).faultPc = s.faultPc := rfl
@[simp] theorem State.setST_faultOpcode : (s.setST b).faultOpcode = s.faultOpcode := rfl
@[simp] theorem State.setST_faultInfo : (s.setST b).faultInfo = s.faultInfo := rfl
@[simp] theorem State.setST_params : (s.setST b).params = s.params := rfl
@[simp] theorem State.setST_draws : (s.setST b).draws = s.draws := rfl
end SetST

section SetMem
variable (s : State) (m : Memory)
@[simp] theorem State.setMem_mem : (s.setMem m).mem = m := rfl
@[simp] theorem State.setMem_V : (s.setMem m).V = s.V := rfl
@[simp] theorem State.setMem_I : (s.setMem m).I = s.I := rfl
@[simp] theorem State.setMem_pc : (s.setMem m).pc = s.pc := rfl
@[simp] theorem State.setMem_stack : (s.setMem m).stack = s.stack := rfl
@[simp] theorem State.setMem_sp : (s.setMem m).sp = s.sp := rfl
@[simp] theorem State.setMem_DT : (s.setMem m).DT = s.DT := rfl
@[simp] theorem State.setMem_ST : (s.setMem m).ST = s.ST := rfl
@[simp] theorem State.setMem_keys : (s.setMem m).keys = s.keys := rfl
@[simp] theorem State.setMem_fb : (s.setMem m).fb = s.fb := rfl
@[simp] theorem State.setMem_redraw : (s.setMem m).redraw = s.redraw := rfl
@[simp] theorem State.setMem_run : (s.setMem m).run = s.run := rfl
@[simp] theorem State.setMem_faultCode : (s.setMem m).faultCode = s.faultCode := rfl
@[simp] theorem State.setMem_faultPc : (s.setMem m).faultPc = s.faultPc := rfl
@[simp] theorem State.setMem_faultOpcode : (s.setMem m).faultOpcode = s.faultOpcode := rfl
@[simp] theorem State.setMem_faultInfo : (s.setMem m).faultInfo = s.faultInfo := rfl
@[simp] theorem State.setMem_params : (s.setMem m).params = s.params := rfl
@[simp] theorem State.setMem_draws : (s.setMem m).draws = s.draws := rfl
end SetMem

section SetV
variable (s : State) (v : Vector Byte 16)
@[simp] theorem State.setV_mem : (s.setV v).mem = s.mem := rfl
@[simp] theorem State.setV_V : (s.setV v).V = v := rfl
@[simp] theorem State.setV_I : (s.setV v).I = s.I := rfl
@[simp] theorem State.setV_pc : (s.setV v).pc = s.pc := rfl
@[simp] theorem State.setV_stack : (s.setV v).stack = s.stack := rfl
@[simp] theorem State.setV_sp : (s.setV v).sp = s.sp := rfl
@[simp] theorem State.setV_DT : (s.setV v).DT = s.DT := rfl
@[simp] theorem State.setV_ST : (s.setV v).ST = s.ST := rfl
@[simp] theorem State.setV_keys : (s.setV v).keys = s.keys := rfl
@[simp] theorem State.setV_fb : (s.setV v).fb = s.fb := rfl
@[simp] theorem State.setV_redraw : (s.setV v).redraw = s.redraw := rfl
@[simp] theorem State.setV_run : (s.setV v).run = s.run := rfl
@[simp] theorem State.setV_faultCode : (s.setV v).faultCode = s.faultCode := rfl
@[simp] theorem State.setV_faultPc : (s.setV v).faultPc = s.faultPc := rfl
@[simp] theorem State.setV_faultOpcode : (s.setV v).faultOpcode = s.faultOpcode := rfl
@[simp] theorem State.setV_faultInfo : (s.setV v).faultInfo = s.faultInfo := rfl
@[simp] theorem State.setV_params : (s.setV v).params = s.params := rfl
@[simp] theorem State.setV_draws : (s.setV v).draws = s.draws := rfl
end SetV

section ConsumeDraw
variable (s : State)
@[simp] theorem State.consumeDraw_mem : (s.consumeDraw).mem = s.mem := rfl
@[simp] theorem State.consumeDraw_V : (s.consumeDraw).V = s.V := rfl
@[simp] theorem State.consumeDraw_I : (s.consumeDraw).I = s.I := rfl
@[simp] theorem State.consumeDraw_pc : (s.consumeDraw).pc = s.pc := rfl
@[simp] theorem State.consumeDraw_stack : (s.consumeDraw).stack = s.stack := rfl
@[simp] theorem State.consumeDraw_sp : (s.consumeDraw).sp = s.sp := rfl
@[simp] theorem State.consumeDraw_DT : (s.consumeDraw).DT = s.DT := rfl
@[simp] theorem State.consumeDraw_ST : (s.consumeDraw).ST = s.ST := rfl
@[simp] theorem State.consumeDraw_keys : (s.consumeDraw).keys = s.keys := rfl
@[simp] theorem State.consumeDraw_fb : (s.consumeDraw).fb = s.fb := rfl
@[simp] theorem State.consumeDraw_redraw : (s.consumeDraw).redraw = s.redraw := rfl
@[simp] theorem State.consumeDraw_run : (s.consumeDraw).run = s.run := rfl
@[simp] theorem State.consumeDraw_faultCode : (s.consumeDraw).faultCode = s.faultCode := rfl
@[simp] theorem State.consumeDraw_faultPc : (s.consumeDraw).faultPc = s.faultPc := rfl
@[simp] theorem State.consumeDraw_faultOpcode : (s.consumeDraw).faultOpcode = s.faultOpcode := rfl
@[simp] theorem State.consumeDraw_faultInfo : (s.consumeDraw).faultInfo = s.faultInfo := rfl
@[simp] theorem State.consumeDraw_params : (s.consumeDraw).params = s.params := rfl
@[simp] theorem State.consumeDraw_draws : (s.consumeDraw).draws = s.draws + 1 := rfl
end ConsumeDraw

section SetFb
variable (s : State) (f : Framebuffer)
@[simp] theorem State.setFb_mem : (s.setFb f).mem = s.mem := rfl
@[simp] theorem State.setFb_V : (s.setFb f).V = s.V := rfl
@[simp] theorem State.setFb_I : (s.setFb f).I = s.I := rfl
@[simp] theorem State.setFb_pc : (s.setFb f).pc = s.pc := rfl
@[simp] theorem State.setFb_stack : (s.setFb f).stack = s.stack := rfl
@[simp] theorem State.setFb_sp : (s.setFb f).sp = s.sp := rfl
@[simp] theorem State.setFb_DT : (s.setFb f).DT = s.DT := rfl
@[simp] theorem State.setFb_ST : (s.setFb f).ST = s.ST := rfl
@[simp] theorem State.setFb_keys : (s.setFb f).keys = s.keys := rfl
@[simp] theorem State.setFb_fb : (s.setFb f).fb = f := rfl
@[simp] theorem State.setFb_redraw : (s.setFb f).redraw = true := rfl
@[simp] theorem State.setFb_run : (s.setFb f).run = s.run := rfl
@[simp] theorem State.setFb_faultCode : (s.setFb f).faultCode = s.faultCode := rfl
@[simp] theorem State.setFb_faultPc : (s.setFb f).faultPc = s.faultPc := rfl
@[simp] theorem State.setFb_faultOpcode : (s.setFb f).faultOpcode = s.faultOpcode := rfl
@[simp] theorem State.setFb_faultInfo : (s.setFb f).faultInfo = s.faultInfo := rfl
@[simp] theorem State.setFb_params : (s.setFb f).params = s.params := rfl
@[simp] theorem State.setFb_draws : (s.setFb f).draws = s.draws := rfl
end SetFb

section Raise
variable (s : State) (e : FaultKind) (p o n : Word)
@[simp] theorem State.raise_mem : (s.raise e p o n).mem = s.mem := rfl
@[simp] theorem State.raise_V : (s.raise e p o n).V = s.V := rfl
@[simp] theorem State.raise_I : (s.raise e p o n).I = s.I := rfl
@[simp] theorem State.raise_pc : (s.raise e p o n).pc = s.pc := rfl
@[simp] theorem State.raise_stack : (s.raise e p o n).stack = s.stack := rfl
@[simp] theorem State.raise_sp : (s.raise e p o n).sp = s.sp := rfl
@[simp] theorem State.raise_DT : (s.raise e p o n).DT = s.DT := rfl
@[simp] theorem State.raise_ST : (s.raise e p o n).ST = s.ST := rfl
@[simp] theorem State.raise_keys : (s.raise e p o n).keys = s.keys := rfl
@[simp] theorem State.raise_fb : (s.raise e p o n).fb = s.fb := rfl
@[simp] theorem State.raise_redraw : (s.raise e p o n).redraw = s.redraw := rfl
@[simp] theorem State.raise_run : (s.raise e p o n).run = .faulted := rfl
@[simp] theorem State.raise_faultCode : (s.raise e p o n).faultCode = e.code := rfl
@[simp] theorem State.raise_faultPc : (s.raise e p o n).faultPc = p := rfl
@[simp] theorem State.raise_faultOpcode : (s.raise e p o n).faultOpcode = o := rfl
@[simp] theorem State.raise_faultInfo : (s.raise e p o n).faultInfo = n := rfl
@[simp] theorem State.raise_params : (s.raise e p o n).params = s.params := rfl
@[simp] theorem State.raise_draws : (s.raise e p o n).draws = s.draws := rfl
end Raise

section RaiseIn
variable (s : State) (i : Instr) (e : FaultKind) (n : Word)
@[simp] theorem State.raiseIn_mem : (s.raiseIn i e n).mem = s.mem := rfl
@[simp] theorem State.raiseIn_V : (s.raiseIn i e n).V = s.V := rfl
@[simp] theorem State.raiseIn_I : (s.raiseIn i e n).I = s.I := rfl
@[simp] theorem State.raiseIn_pc : (s.raiseIn i e n).pc = s.pc := rfl
@[simp] theorem State.raiseIn_stack : (s.raiseIn i e n).stack = s.stack := rfl
@[simp] theorem State.raiseIn_sp : (s.raiseIn i e n).sp = s.sp := rfl
@[simp] theorem State.raiseIn_DT : (s.raiseIn i e n).DT = s.DT := rfl
@[simp] theorem State.raiseIn_ST : (s.raiseIn i e n).ST = s.ST := rfl
@[simp] theorem State.raiseIn_keys : (s.raiseIn i e n).keys = s.keys := rfl
@[simp] theorem State.raiseIn_fb : (s.raiseIn i e n).fb = s.fb := rfl
@[simp] theorem State.raiseIn_redraw : (s.raiseIn i e n).redraw = s.redraw := rfl
@[simp] theorem State.raiseIn_run : (s.raiseIn i e n).run = .faulted := rfl
@[simp] theorem State.raiseIn_faultCode : (s.raiseIn i e n).faultCode = e.code := rfl
@[simp] theorem State.raiseIn_faultPc : (s.raiseIn i e n).faultPc = s.pc - 2 := rfl
@[simp] theorem State.raiseIn_faultOpcode : (s.raiseIn i e n).faultOpcode = encode i := rfl
@[simp] theorem State.raiseIn_faultInfo : (s.raiseIn i e n).faultInfo = n := rfl
@[simp] theorem State.raiseIn_params : (s.raiseIn i e n).params = s.params := rfl
@[simp] theorem State.raiseIn_draws : (s.raiseIn i e n).draws = s.draws := rfl
end RaiseIn

section RaiseFetch
variable (s : State) (a : Word)
@[simp] theorem State.raiseFetch_mem : (s.raiseFetch a).mem = s.mem := rfl
@[simp] theorem State.raiseFetch_V : (s.raiseFetch a).V = s.V := rfl
@[simp] theorem State.raiseFetch_I : (s.raiseFetch a).I = s.I := rfl
@[simp] theorem State.raiseFetch_pc : (s.raiseFetch a).pc = s.pc := rfl
@[simp] theorem State.raiseFetch_stack : (s.raiseFetch a).stack = s.stack := rfl
@[simp] theorem State.raiseFetch_sp : (s.raiseFetch a).sp = s.sp := rfl
@[simp] theorem State.raiseFetch_DT : (s.raiseFetch a).DT = s.DT := rfl
@[simp] theorem State.raiseFetch_ST : (s.raiseFetch a).ST = s.ST := rfl
@[simp] theorem State.raiseFetch_keys : (s.raiseFetch a).keys = s.keys := rfl
@[simp] theorem State.raiseFetch_fb : (s.raiseFetch a).fb = s.fb := rfl
@[simp] theorem State.raiseFetch_redraw : (s.raiseFetch a).redraw = s.redraw := rfl
@[simp] theorem State.raiseFetch_run : (s.raiseFetch a).run = .faulted := rfl
@[simp] theorem State.raiseFetch_faultCode : (s.raiseFetch a).faultCode = 5 := rfl
@[simp] theorem State.raiseFetch_faultPc : (s.raiseFetch a).faultPc = s.pc := rfl
@[simp] theorem State.raiseFetch_faultOpcode : (s.raiseFetch a).faultOpcode = 0 := rfl
@[simp] theorem State.raiseFetch_faultInfo : (s.raiseFetch a).faultInfo = a := rfl
@[simp] theorem State.raiseFetch_params : (s.raiseFetch a).params = s.params := rfl
@[simp] theorem State.raiseFetch_draws : (s.raiseFetch a).draws = s.draws := rfl
end RaiseFetch

section RaiseIllegal
variable (s : State) (w : Word)
@[simp] theorem State.raiseIllegal_mem : (s.raiseIllegal w).mem = s.mem := rfl
@[simp] theorem State.raiseIllegal_V : (s.raiseIllegal w).V = s.V := rfl
@[simp] theorem State.raiseIllegal_I : (s.raiseIllegal w).I = s.I := rfl
@[simp] theorem State.raiseIllegal_pc : (s.raiseIllegal w).pc = s.pc := rfl
@[simp] theorem State.raiseIllegal_stack : (s.raiseIllegal w).stack = s.stack := rfl
@[simp] theorem State.raiseIllegal_sp : (s.raiseIllegal w).sp = s.sp := rfl
@[simp] theorem State.raiseIllegal_DT : (s.raiseIllegal w).DT = s.DT := rfl
@[simp] theorem State.raiseIllegal_ST : (s.raiseIllegal w).ST = s.ST := rfl
@[simp] theorem State.raiseIllegal_keys : (s.raiseIllegal w).keys = s.keys := rfl
@[simp] theorem State.raiseIllegal_fb : (s.raiseIllegal w).fb = s.fb := rfl
@[simp] theorem State.raiseIllegal_redraw : (s.raiseIllegal w).redraw = s.redraw := rfl
@[simp] theorem State.raiseIllegal_run : (s.raiseIllegal w).run = .faulted := rfl
@[simp] theorem State.raiseIllegal_faultCode : (s.raiseIllegal w).faultCode = 2 := rfl
@[simp] theorem State.raiseIllegal_faultPc : (s.raiseIllegal w).faultPc = s.pc - 2 := rfl
@[simp] theorem State.raiseIllegal_faultOpcode : (s.raiseIllegal w).faultOpcode = w := rfl
@[simp] theorem State.raiseIllegal_faultInfo : (s.raiseIllegal w).faultInfo = 0 := rfl
@[simp] theorem State.raiseIllegal_params : (s.raiseIllegal w).params = s.params := rfl
@[simp] theorem State.raiseIllegal_draws : (s.raiseIllegal w).draws = s.draws := rfl
end RaiseIllegal

section ClearFault
variable (s : State)
@[simp] theorem State.clearFault_mem : (s.clearFault).mem = s.mem := rfl
@[simp] theorem State.clearFault_V : (s.clearFault).V = s.V := rfl
@[simp] theorem State.clearFault_I : (s.clearFault).I = s.I := rfl
@[simp] theorem State.clearFault_pc : (s.clearFault).pc = s.pc := rfl
@[simp] theorem State.clearFault_stack : (s.clearFault).stack = s.stack := rfl
@[simp] theorem State.clearFault_sp : (s.clearFault).sp = s.sp := rfl
@[simp] theorem State.clearFault_DT : (s.clearFault).DT = s.DT := rfl
@[simp] theorem State.clearFault_ST : (s.clearFault).ST = s.ST := rfl
@[simp] theorem State.clearFault_keys : (s.clearFault).keys = s.keys := rfl
@[simp] theorem State.clearFault_fb : (s.clearFault).fb = s.fb := rfl
@[simp] theorem State.clearFault_redraw : (s.clearFault).redraw = s.redraw := rfl
@[simp] theorem State.clearFault_run : (s.clearFault).run = .running := rfl
@[simp] theorem State.clearFault_faultCode : (s.clearFault).faultCode = 0 := rfl
@[simp] theorem State.clearFault_faultPc : (s.clearFault).faultPc = 0 := rfl
@[simp] theorem State.clearFault_faultOpcode : (s.clearFault).faultOpcode = 0 := rfl
@[simp] theorem State.clearFault_faultInfo : (s.clearFault).faultInfo = 0 := rfl
@[simp] theorem State.clearFault_params : (s.clearFault).params = s.params := rfl
@[simp] theorem State.clearFault_draws : (s.clearFault).draws = s.draws := rfl
end ClearFault

end Sys2Proof.Machine
end

