-- ==== Sys2Proof/Laws/Ops.lean ====
section
/-! SUPPORT. One law per shared operation over registers, stack, keypad, framebuffer and fetch: everything it can answer. -/

namespace Sys2Proof.Machine

/-! ### Registers -/

/-- A register read after a register write. -/
theorem State.readReg_writeReg (s : State) (r r' : Nibble) (b : Byte) :
    (s.writeReg r b).readReg r' = if r' = r then b else s.readReg r' := by
  simp only [State.readReg, State.writeReg, Vector.getElem_set, BitVec.toNat_eq]
  grind

@[simp] theorem State.readReg_writeReg_self (s : State) (r : Nibble) (b : Byte) : (s.writeReg r b).readReg r = b := by
  simp [State.readReg_writeReg]

/-- A register read depends on the registers alone. -/
theorem State.readReg_congr {s t : State} (h : t.V = s.V) (r : Nibble) : t.readReg r = s.readReg r := by
  simp only [State.readReg, h]

/-! ### The call stack -/

/-- A push on a stack with room: the value in the slot at the depth, the depth one more, nothing else changed. -/
theorem State.push_eq_some {s : State} (v : Word) (h : s.sp.val < Config.stackDepth) :
    s.push v = some { s with stack := s.stack.set s.sp.val v h, sp := ⟨s.sp.val + 1, Nat.succ_lt_succ h⟩ } := dif_pos h

/-- A push on a full stack has no room. -/
theorem State.push_eq_none {s : State} (v : Word) (h : s.sp.val = Config.stackDepth) : s.push v = none :=
  dif_neg (by omega)

/-- A pop answers nothing exactly on an empty stack. -/
theorem State.pop_eq_none {s : State} (h : s.sp.val = 0) : s.pop = none := dif_neg (by omega)

/-- A pop on a stack with an entry: the top slot, the depth one less, the slots unchanged. -/
theorem State.pop_eq_some {s : State} (h : 0 < s.sp.val) :
    s.pop = some (s.stack[s.sp.val - 1]'(by have := s.sp.isLt; omega),
      { s with sp := ⟨s.sp.val - 1, by have := s.sp.isLt; omega⟩ }) := dif_pos h

/-! ### The framebuffer -/

/-- A pixel read after a pixel write, at any coordinates. -/
theorem fbGet_fbPut (f : Framebuffer) (x y x' y' : Nat) (p : Bool) :
    fbGet (fbPut f x y p) x' y' = if x' % 64 = x % 64 ∧ y' % 32 = y % 32 then p else fbGet f x' y' := by
  simp only [fbGet, fbPut, Vector.getElem_set]
  grind

/-- A toggle flips its pixel and leaves every other one alone (R131). -/
theorem fbGet_fbToggle (f : Framebuffer) (x y x' y' : Nat) :
    fbGet (fbToggle f x y).1 x' y' = (fbGet f x' y' ^^ decide (x' % 64 = x % 64 ∧ y' % 32 = y % 32)) := by
  rw [fbToggle, fbGet_fbPut]
  split
  · next h => simp only [fbGet, h, and_self, decide_true, Bool.xor_true]
  · next h => simp [h]

/-- Every pixel of a cleared framebuffer is unset (R132). -/
@[simp] theorem fbGet_fbClear (x y : Nat) : fbGet fbClear x y = false := by simp [fbGet, fbClear]

/-- Reads wrap (R130). -/
theorem fbGet_mod (f : Framebuffer) (x y : Nat) : fbGet f (x % 64) (y % 32) = fbGet f x y := by
  simp only [fbGet, Nat.mod_mod]

/-! ### Fetch and faults -/

/-- Fetch answers the opcode at `pc` where both bytes are in memory (R102). -/
theorem State.fetch_ok {s : State} (h : s.pc.toNat ≤ 0xFFE) : s.fetch = .ok (s.readOpcode s.pc.toNat) :=
  if_neg (by simpa using h)

/-- Fetch past 0xFFE answers the lowest out-of-range address (R102). -/
theorem State.fetch_error {s : State} (h : 0xFFE < s.pc.toNat) :
    s.fetch = .error (if s.pc = 0xFFF#16 then 0x1000#16 else s.pc) := if_pos h

/-- The opcode stored by `placeWord` is the one fetched (R61). -/
theorem State.readOpcode_placeWord {s : State} (w : Word) (hm : Memory.wf s.mem) (h : s.pc.toNat ≤ 0xFFE) :
    (s.placeWord w).readOpcode s.pc.toNat = w := by
  have hl : ∀ u : State, u.mem = s.mem → u.pc = s.pc →
      (u.setMem (memWriteList u.mem u.pc.toNat [wordHi w, wordLo w])).readOpcode s.pc.toNat = w := by
    intro u hu hp
    have h0 := memRead_memWriteList_in (bs := [wordHi w, wordLo w]) (a := s.pc.toNat) (k := 0) hm
      (by simp [Config.memSize]; omega) (by simp)
    have h1 := memRead_memWriteList_in (bs := [wordHi w, wordLo w]) (a := s.pc.toNat) (k := 1) hm
      (by simp [Config.memSize]; omega) (by simp)
    simp only [Nat.add_zero, List.getElem_cons_zero, List.getElem_cons_succ] at h0 h1
    simp only [State.readOpcode, State.readMem, State.setMem_mem, hu, hp, h0, h1]
    ext i; simp only [wordOfBytes, wordHi, wordLo]; grind
  have hn : ¬ lastFetch < s.pc.toNat := by simpa [lastFetch] using h
  by_cases hr : s.run = .faulted
  · simpa only [State.placeWord, if_pos hr, State.clearFault_pc, if_neg hn] using hl s.clearFault rfl rfl
  · simpa only [State.placeWord, if_neg hr, if_neg hn] using hl s rfl rfl

end Sys2Proof.Machine
end

