-- ==== Sys2Proof/Laws/Draw.lean ====
section
/-! SUPPORT. What drawing a sprite does (R134): which pixels flip, and when the hit is set. No pixel is toggled twice, since a row
spans 8 < 64 columns and a sprite at most 15 < 32 rows. -/

namespace Sys2Proof.Machine

section Row
variable {b : Byte} {cx cy k px py : Nat} {a : Framebuffer × Bool}

/-- A pixel no set bit of the row falls on is unchanged. -/
theorem drawBits_uncovered
    (h : ∀ c, c < k → b.getLsbD (7 - c) = true → ¬ (px % 64 = (cx + c) % 64 ∧ py % 32 = cy % 32)) :
    fbGet (drawBits b cx cy k a).1 px py = fbGet a.1 px py := by
  induction k with
  | zero => rfl
  | succ k ih =>
    have ih := ih fun c hc => h c (by omega)
    simp only [drawBits]
    split
    · next hb => rw [fbGet_fbToggle, ih]; simp [h k (by omega) hb]
    · exact ih

/-- A pixel a set bit of the row falls on is flipped. -/
theorem drawBits_covered {c : Nat} (hk : k ≤ 8) (hc : c < k) (hb : b.getLsbD (7 - c) = true)
    (hx : px % 64 = (cx + c) % 64) (hy : py % 32 = cy % 32) :
    fbGet (drawBits b cx cy k a).1 px py = !fbGet a.1 px py := by
  induction k with
  | zero => omega
  | succ k ih =>
    simp only [drawBits]
    by_cases hck : c = k
    · subst hck
      rw [if_pos hb, fbGet_fbToggle, drawBits_uncovered fun d hd _ => by omega]
      simp [hx, hy]
    · have ih := ih (by omega) (by omega)
      split
      · rw [fbGet_fbToggle, ih]
        have : ¬ (px % 64 = (cx + k) % 64 ∧ py % 32 = cy % 32) := by omega
        simp [this]
      · exact ih

/-- The row sets the hit exactly where a set bit falls on a set pixel. -/
theorem drawBits_hit (hk : k ≤ 8) :
    (drawBits b cx cy k a).2 = true ↔
      a.2 = true ∨ ∃ c, c < k ∧ b.getLsbD (7 - c) = true ∧ fbGet a.1 (cx + c) cy = true := by
  induction k with
  | zero => simp [drawBits]
  | succ k ih =>
    have ih := ih (by omega)
    have hpix : fbGet (drawBits b cx cy k a).1 (cx + k) cy = fbGet a.1 (cx + k) cy :=
      drawBits_uncovered fun d hd _ => by omega
    simp only [drawBits]
    split
    · next hb =>
      simp only [fbToggle, hpix, Bool.not_not, Bool.or_eq_true, ih]
      constructor
      · rintro ((h | ⟨c, hc, h⟩) | h)
        · exact .inl h
        · exact .inr ⟨c, by omega, h⟩
        · exact .inr ⟨k, by omega, hb, h⟩
      · rintro (h | ⟨c, hc, h⟩)
        · exact .inl (.inl h)
        · rcases Nat.lt_succ_iff_lt_or_eq.mp hc with hc | rfl
          · exact .inl (.inr ⟨c, hc, h⟩)
          · exact .inr h.2
    · next hb =>
      rw [ih]
      refine or_congr_right ⟨fun ⟨c, hc, h⟩ => ⟨c, by omega, h⟩, fun ⟨c, hc, h⟩ => ?_⟩
      rcases Nat.lt_succ_iff_lt_or_eq.mp hc with hc | rfl
      · exact ⟨c, hc, h⟩
      · exact absurd h.1 hb

end Row

section Sprite
variable {m : Memory} {i cx cy n px py : Nat} {a : Framebuffer × Bool}

/-- A pixel no set bit of the sprite falls on is unchanged. -/
theorem drawRows_uncovered
    (h : ∀ r c, r < n → c < 8 → (memRead m (i + r)).getLsbD (7 - c) = true →
      ¬ (px % 64 = (cx + c) % 64 ∧ py % 32 = (cy + r) % 32)) :
    fbGet (drawRows m i cx cy n a).1 px py = fbGet a.1 px py := by
  induction n with
  | zero => rfl
  | succ n ih =>
    rw [drawRows, drawBits_uncovered fun c hc hb => h n c (by omega) hc hb]
    exact ih fun r c hr => h r c (by omega)

/-- A pixel a set bit of the sprite falls on is flipped. -/
theorem drawRows_covered {r c : Nat} (hn : n ≤ 32) (hr : r < n) (hc : c < 8)
    (hb : (memRead m (i + r)).getLsbD (7 - c) = true) (hx : px % 64 = (cx + c) % 64) (hy : py % 32 = (cy + r) % 32) :
    fbGet (drawRows m i cx cy n a).1 px py = !fbGet a.1 px py := by
  induction n with
  | zero => omega
  | succ n ih =>
    rw [drawRows]
    by_cases hrn : r = n
    · subst hrn
      rw [drawBits_covered (by omega) hc hb hx hy, drawRows_uncovered fun r' c' hr' _ _ => by omega]
    · rw [drawBits_uncovered fun d hd _ => by omega]
      exact ih (by omega) (by omega)

/-- The sprite sets the hit exactly where a set bit falls on a set pixel. -/
theorem drawRows_hit (hn : n ≤ 32) :
    (drawRows m i cx cy n a).2 = true ↔
      a.2 = true ∨ ∃ r c, r < n ∧ c < 8 ∧ (memRead m (i + r)).getLsbD (7 - c) = true ∧
        fbGet a.1 (cx + c) (cy + r) = true := by
  induction n with
  | zero => simp [drawRows]
  | succ n ih =>
    have ih := ih (by omega)
    have hpix : ∀ c, fbGet (drawRows m i cx cy n a).1 (cx + c) (cy + n) = fbGet a.1 (cx + c) (cy + n) :=
      fun c => drawRows_uncovered fun r' c' hr' _ _ => by omega
    rw [drawRows, drawBits_hit (by omega), ih]
    simp only [hpix]
    constructor
    · rintro ((h | ⟨r, c, hr, h⟩) | ⟨c, h⟩)
      · exact .inl h
      · exact .inr ⟨r, c, by omega, h⟩
      · exact .inr ⟨n, c, by omega, h⟩
    · rintro (h | ⟨r, c, hr, h⟩)
      · exact .inl (.inl h)
      · rcases Nat.lt_succ_iff_lt_or_eq.mp hr with hr | rfl
        · exact .inl (.inr ⟨r, c, hr, h⟩)
        · exact .inr ⟨c, h⟩

end Sprite

end Sys2Proof.Machine
end

