-- ==== Sys2Proof/Laws/Operands.lean ====
section
/-! SUPPORT. One law per operand form and flag: the numbers they stand for. -/

namespace Sys2Proof.Machine

@[simp] theorem zextAddr_toNat (nnn : Addr12) : (zextAddr nnn).toNat = nnn.toNat := by
  have := nnn.isLt
  simp [zextAddr]; omega

@[simp] theorem zextByte_toNat (b : Byte) : (zextByte b).toNat = b.toNat := by
  have := b.isLt
  simp [zextByte]; omega

/-- A `Bnnn` target under `Full` does not wrap (R154). -/
theorem bnnnTarget_full_toNat (nnn : Addr12) (v : Byte) : (bnnnTarget .full nnn v).toNat = nnn.toNat + v.toNat := by
  have := nnn.isLt; have := v.isLt
  simp only [bnnnTarget, BitVec.toNat_add, zextAddr_toNat, zextByte_toNat]
  omega

/-- A `Bnnn` target under `Trunc8` keeps the low 8 bits of the sum (R154). -/
theorem bnnnTarget_trunc8_toNat (nnn : Addr12) (v : Byte) :
    (bnnnTarget .trunc8 nnn v).toNat = (nnn.toNat + v.toNat) % 256 := by
  have := nnn.isLt; have := v.isLt
  simp only [bnnnTarget, BitVec.toNat_and, BitVec.toNat_add, zextAddr_toNat, zextByte_toNat]
  rw [show (BitVec.toNat (0xFF : Word)) = 2 ^ 8 - 1 from rfl, Nat.and_two_pow_sub_one_eq_mod]
  omega

/-- The address `Fx29` makes, without wrap (R212). -/
theorem glyphAddr_toNat (base : Config.Fx29Base) (v : Byte) : (glyphAddr base v).toNat = fx29BaseAddr base + 5 * v.toNat := by
  have := v.isLt
  cases base <;> simp only [glyphAddr, BitVec.toNat_ofNat, fx29BaseAddr, Config.fontBase] <;> omega

/-- The check of a range of addresses (R63): what it answers and when. -/
theorem rangeFault_eq (base : Word) (count : Nat) :
    rangeFault base count =
      if 0 < count ∧ 0xFFF < base.toNat + count - 1 then some (lowestOut base) else none := by
  have hb := base.isLt
  simp only [rangeFault, lowestOut, Config.memSize]
  by_cases h : 0 < count ∧ 0xFFF < base.toNat + count - 1
  · rw [if_pos h, if_pos (by omega)]
    congr 1
    split
    · next hlt => rw [Nat.max_eq_right (by omega)]; rfl
    · next hge =>
      rw [Nat.max_eq_left (by omega)]
      apply BitVec.eq_of_toNat_eq
      rw [BitVec.toNat_ofNat]
      omega
  · rw [if_neg h, if_neg (by omega)]

@[simp] theorem State.regList_length (s : State) (k : Nat) : (s.regList k).length = k := by
  induction k with
  | zero => rfl
  | succ k ih => simp [State.regList, ih]

/-- Entry `j` of the list Fx55 stores is `V[j]` (R214). -/
theorem State.regList_getElem (s : State) {k j : Nat} (h : j < (s.regList k).length) :
    (s.regList k)[j] = s.readReg (BitVec.ofNat 4 j) := by
  induction k with
  | zero => simp at h
  | succ k ih =>
    simp only [State.regList_length] at h
    simp only [State.regList]
    by_cases hj : j < k
    · rw [List.getElem_append_left (by simpa using hj)]; exact ih _
    · obtain rfl : j = k := by omega
      rw [List.getElem_append_right (by simp)]; simp

/-- Register `r` after Fx65's load of `k` registers: the byte at its place, or the old value above (R215). -/
theorem loadRegs_getElem (m : Memory) (a : Nat) (v : Vector Byte 16) {k : Nat} (hk : k ≤ 16) (r : Nibble) :
    (loadRegs m a v k)[r.toNat]'r.isLt = if r.toNat < k then memRead m (a + r.toNat) else v[r.toNat]'r.isLt := by
  induction k with
  | zero => simp [loadRegs]
  | succ k ih =>
    have ih := ih (by omega)
    have hkn : (BitVec.ofNat 4 k).toNat = k := by simp [BitVec.toNat_ofNat]; omega
    simp only [loadRegs, Vector.getElem_set, hkn, ih]
    grind

/-- The lowest pressed key (R233): pressed, with no pressed key below it. -/
theorem State.lowestKey_eq_some {s : State} {k : Nibble} (h : s.lowestKey = some k) :
    s.keyDown k = true ∧ ∀ j : Nibble, j.toNat < k.toNat → s.keyDown j = false := by
  obtain ⟨hk, as, bs, hl, hbefore⟩ := List.find?_eq_some_iff_append.mp h
  refine ⟨hk, fun j hj => ?_⟩
  have hjm : j ∈ as := by
    have hlen : ∀ n (hn : n < ((List.range 16).map (BitVec.ofNat 4)).length),
        ((List.range 16).map (BitVec.ofNat 4))[n] = BitVec.ofNat 4 n := by simp
    have hidx : as.length = k.toNat := by
      have hlt : as.length < ((List.range 16).map (BitVec.ofNat 4)).length := by rw [hl]; simp
      have := hlen as.length hlt
      simp only [hl, List.getElem_append_right (Nat.le_refl _), Nat.sub_self, List.getElem_cons_zero] at this
      rw [this, BitVec.toNat_ofNat, Nat.mod_eq_of_lt (by simpa using hlt)]
    have hj16 : j.toNat < ((List.range 16).map (BitVec.ofNat 4)).length := by simpa using j.isLt
    have := hlen j.toNat hj16
    simp only [hl, List.getElem_append_left (show j.toNat < as.length by omega), BitVec.ofNat_toNat,
      BitVec.setWidth_eq] at this
    exact this ▸ List.getElem_mem _
  simpa using hbefore j hjm

/-- No key is pressed where there is no lowest one. -/
theorem State.lowestKey_eq_none {s : State} (h : s.lowestKey = none) (j : Nibble) : s.keyDown j = false := by
  have := List.find?_eq_none.mp h j (by
    refine List.mem_map.mpr ⟨j.toNat, by simpa using j.isLt, by simp⟩)
  simpa using this

/-! ### Flags and their writes -/

theorem flagByte_decide (p : Prop) [Decidable p] : flagByte (decide p) = if p then 1 else 0 := by simp [flagByte]

/-- Registers after a result and then the flag are written (R180). -/
theorem State.readReg_writeThenFlag (s : State) (x r : Nibble) (v f : Byte) :
    (s.writeThenFlag x v f).readReg r = if r = 0xF#4 then f else if r = x then v else s.readReg r := by
  simp [State.writeThenFlag, State.writeFlag, State.readReg_writeReg]

/-- Registers after a shift is written, under both values of `VF_ORDER` (R180). -/
theorem State.readReg_writeShift (s : State) (x r : Nibble) (g : Byte → Byte) (f : Byte) :
    (s.writeShift x g f).readReg r =
      match s.params.vfOrder with
      | .flagLast => if r = 0xF#4 then f else if r = x then g (s.readReg x) else s.readReg r
      | .tableOrder =>
        if r = x then g (if x = 0xF#4 then f else s.readReg x) else if r = 0xF#4 then f else s.readReg r := by
  simp only [State.writeShift]
  cases s.params.vfOrder
  · simp [State.readReg_writeThenFlag]
  · simp [State.writeFlag, State.readReg_writeReg]

/-- A result and a flag change the registers alone. -/
theorem State.writeThenFlag_eq (s : State) (x : Nibble) (v f : Byte) :
    s.writeThenFlag x v f = s.setV (s.writeThenFlag x v f).V := rfl

/-- A shift changes the registers alone. -/
theorem State.writeShift_eq (s : State) (x : Nibble) (g : Byte → Byte) (f : Byte) :
    s.writeShift x g f = s.setV (s.writeShift x g f).V := by
  simp only [State.writeShift]
  cases s.params.vfOrder <;> rfl

/-! ### Skips -/

/-- A skip changes `pc` alone (R170). -/
theorem State.skipIf_eq (s : State) (c : Bool) : s.skipIf c = s.setPc (if c then s.pc + 2 else s.pc) := by
  cases c <;> rfl

end Sys2Proof.Machine
end

