-- ==== Sys2Proof/Laws/Exec.lean ====
section
/-! SUPPORT. The shared shapes of the meanings: frames from equal fields, a fault taken by an instruction, and what each meaning
that can raise a fault answers on either side of its check. -/

namespace Sys2Proof.Machine

/-- A frame from the equality of the fields of every piece that is not named. -/
theorem unchanged_of_fields {ps : List Piece} {s t : State}
    (mem : .mem ∈ ps ∨ t.mem = s.mem) (regs : .regs ∈ ps ∨ t.V = s.V) (index : .index ∈ ps ∨ t.I = s.I)
    (pc : .pc ∈ ps ∨ t.pc = s.pc) (stack : .stack ∈ ps ∨ t.stack = s.stack) (sp : .sp ∈ ps ∨ t.sp = s.sp)
    (delay : .delay ∈ ps ∨ t.DT = s.DT) (sound : .sound ∈ ps ∨ t.ST = s.ST) (keys : .keys ∈ ps ∨ t.keys = s.keys)
    (pixels : .pixels ∈ ps ∨ t.fb = s.fb) (redraw : .redraw ∈ ps ∨ t.redraw = s.redraw)
    (faultState : .faultState ∈ ps ∨ SameFault s t) (params : .params ∈ ps ∨ t.params = s.params)
    (draws : .draws ∈ ps ∨ t.draws = s.draws) : Unchanged ps s t := by
  intro p hp
  cases p <;> simp_all [Agree, State.readMem, State.readReg, State.keyDown, State.pixel]

/-- `raise` writes the fault record and nothing else (R251). -/
theorem faultTaken_raise (s : State) (e : FaultKind) (p o n : Word) : FaultTaken e p o n s (s.raise e p o n) :=
  ⟨rfl, rfl, rfl, rfl, rfl, by apply unchanged_of_fields <;> simp⟩

/-- The slots of the stack, numbered with its depth. -/
theorem State.sp_le (s : State) : s.sp.val ≤ 16 := Nat.le_of_lt_succ s.sp.isLt

/-- A call with room (R151, R153). -/
theorem callTo_room {s : State} (i : Instr) (nnn : Addr12) (h : s.sp.val < 16) :
    callTo i nnn s = { s with
      pc := zextAddr nnn, stack := s.stack.set s.sp.val s.pc h, sp := ⟨s.sp.val + 1, Nat.succ_lt_succ h⟩ } := by
  simp only [callTo, State.push_eq_some s.pc h, State.setPc]

/-- A call on a full stack (R255). -/
theorem callTo_full {s : State} (i : Instr) (nnn : Addr12) (h : s.sp.val = 16) :
    callTo i nnn s = s.raiseIn i .stackOverflow 16 := by
  simp only [callTo, State.push_eq_none s.pc h, h]; rfl

/-- A return with an entry (R150). -/
theorem execRet_entry {s : State} (h : 0 < s.sp.val) :
    execRet s = .next { s with
      pc := s.stack[s.sp.val - 1]'(by have := s.sp_le; omega), sp := ⟨s.sp.val - 1, by have := s.sp.isLt; omega⟩ } := by
  simp only [execRet, State.pop_eq_some h, State.setPc]

/-- A return on an empty stack (R254). -/
theorem execRet_empty {s : State} (h : s.sp.val = 0) : execRet s = .next (s.raiseIn .ret .stackUnderflow 0) := by
  simp only [execRet, State.pop_eq_none h]

/-- A draw whose rows are in memory (R134). -/
theorem execDrw_inRange {x y n : Nibble} {s : State} (h : n.toNat = 0 ∨ s.I.toNat + n.toNat - 1 ≤ 0xFFF) :
    execDrw x y n s =
      let d := drawRows s.mem s.I.toNat (s.readReg x).toNat (s.readReg y).toNat n.toNat (s.fb, false)
      .next ((s.setFb d.1).writeFlag (flagByte d.2)) := by
  simp only [execDrw, rangeFault_eq]
  rw [if_neg (by omega)]

/-- A draw that reaches past memory (R134). -/
theorem execDrw_outOfRange {x y n : Nibble} {s : State} (h : n.toNat ≠ 0 ∧ 0xFFF < s.I.toNat + n.toNat - 1) :
    execDrw x y n s = .next (s.raiseIn (.drw x y n) .memoryOutOfRange (lowestOut s.I)) := by
  simp only [execDrw, rangeFault_eq]
  rw [if_pos (by omega)]

/-- Digits stored in memory (R213). -/
theorem execLdB_inRange {x : Nibble} {s : State} (h : s.I.toNat + 2 ≤ 0xFFF) :
    execLdB x s = .next (s.setMem (memWriteList s.mem s.I.toNat (bcdDigits (s.readReg x)))) := by
  simp only [execLdB, rangeFault_eq]
  rw [if_neg (by omega)]

/-- Digits that reach past memory (R213). -/
theorem execLdB_outOfRange {x : Nibble} {s : State} (h : 0xFFF < s.I.toNat + 2) :
    execLdB x s = .next (s.raiseIn (.ldB x) .memoryOutOfRange (lowestOut s.I)) := by
  simp only [execLdB, rangeFault_eq]
  rw [if_pos (by omega)]

/-- Registers stored in memory (R214). -/
theorem execLdMemVx_inRange {x : Nibble} {s : State} (h : s.I.toNat + x.toNat ≤ 0xFFF) :
    execLdMemVx x s = .next (s.setMem (memWriteList s.mem s.I.toNat (s.regList (x.toNat + 1)))) := by
  simp only [execLdMemVx, rangeFault_eq]
  rw [if_neg (by omega)]

/-- Registers that reach past memory (R214). -/
theorem execLdMemVx_outOfRange {x : Nibble} {s : State} (h : 0xFFF < s.I.toNat + x.toNat) :
    execLdMemVx x s = .next (s.raiseIn (.ldMemVx x) .memoryOutOfRange (lowestOut s.I)) := by
  simp only [execLdMemVx, rangeFault_eq]
  rw [if_pos (by omega)]

/-- Registers loaded from memory (R215). -/
theorem execLdVxMem_inRange {x : Nibble} {s : State} (h : s.I.toNat + x.toNat ≤ 0xFFF) :
    execLdVxMem x s = .next (s.setV (loadRegs s.mem s.I.toNat s.V (x.toNat + 1))) := by
  simp only [execLdVxMem, rangeFault_eq]
  rw [if_neg (by omega)]

/-- A load that reaches past memory (R215). -/
theorem execLdVxMem_outOfRange {x : Nibble} {s : State} (h : 0xFFF < s.I.toNat + x.toNat) :
    execLdVxMem x s = .next (s.raiseIn (.ldVxMem x) .memoryOutOfRange (lowestOut s.I)) := by
  simp only [execLdVxMem, rangeFault_eq]
  rw [if_pos (by omega)]

/-- A key test on an index in range (R230, R231). -/
theorem keySkip_inRange (i : Instr) {v : Byte} (c : Bool → Bool) {s : State} (h : v.toNat ≤ 15) :
    keySkip i v c s = s.setPc (if c (s.keyDown (v.setWidth 4)) then s.pc + 2 else s.pc) := by
  rw [keySkip, if_neg (by omega), State.skipIf_eq]

/-- A key test on an index above 15 (R257). -/
theorem keySkip_outOfRange (i : Instr) {v : Byte} (c : Bool → Bool) {s : State} (h : 15 < v.toNat) :
    keySkip i v c s = s.raiseIn i .keyIndexOutOfRange (v.setWidth 16) := if_pos h

end Sys2Proof.Machine
end

