-- ==== Sys2Proof/Laws/PerInstr.lean ====
section
/-! SUPPORT. Per-instruction laws: the encoding of every instruction selects its row of 30_encoding.md R85. -/

namespace Sys2Proof.Laws.TableRow

/-- The encoding of an instruction, under its row's mask, is its row's match word (R85). -/
def Statement (i : Instr) : Prop := encode i &&& (opcodeRow i).mask = (opcodeRow i).pat

theorem cls : Statement .cls := rfl

theorem ret : Statement .ret := rfl

theorem sys (nnn : Addr12) : Statement (.sys nnn) := encodeA_and_F000 _ nnn

theorem jp (nnn : Addr12) : Statement (.jp nnn) := encodeA_and_F000 _ nnn

theorem call (nnn : Addr12) : Statement (.call nnn) := encodeA_and_F000 _ nnn

theorem seImm (x : Nibble) (nn : Byte) : Statement (.seImm x nn) := encodeXNN_and_F000 _ x nn

theorem sneImm (x : Nibble) (nn : Byte) : Statement (.sneImm x nn) := encodeXNN_and_F000 _ x nn

theorem seReg (x y : Nibble) : Statement (.seReg x y) := encodeXYN_and_F00F _ x y _

theorem ldImm (x : Nibble) (nn : Byte) : Statement (.ldImm x nn) := encodeXNN_and_F000 _ x nn

theorem addImm (x : Nibble) (nn : Byte) : Statement (.addImm x nn) := encodeXNN_and_F000 _ x nn

theorem ldReg (x y : Nibble) : Statement (.ldReg x y) := encodeXYN_and_F00F _ x y _

theorem orReg (x y : Nibble) : Statement (.orReg x y) := encodeXYN_and_F00F _ x y _

theorem andReg (x y : Nibble) : Statement (.andReg x y) := encodeXYN_and_F00F _ x y _

theorem xorReg (x y : Nibble) : Statement (.xorReg x y) := encodeXYN_and_F00F _ x y _

theorem addReg (x y : Nibble) : Statement (.addReg x y) := encodeXYN_and_F00F _ x y _

theorem sub (x y : Nibble) : Statement (.sub x y) := encodeXYN_and_F00F _ x y _

theorem shr (x y : Nibble) : Statement (.shr x y) := encodeXYN_and_F00F _ x y _

theorem subn (x y : Nibble) : Statement (.subn x y) := encodeXYN_and_F00F _ x y _

theorem shl (x y : Nibble) : Statement (.shl x y) := encodeXYN_and_F00F _ x y _

theorem sneReg (x y : Nibble) : Statement (.sneReg x y) := encodeXYN_and_F00F _ x y _

theorem ldI (nnn : Addr12) : Statement (.ldI nnn) := encodeA_and_F000 _ nnn

theorem jpV0 (nnn : Addr12) : Statement (.jpV0 nnn) := encodeA_and_F000 _ nnn

theorem rnd (x : Nibble) (nn : Byte) : Statement (.rnd x nn) := encodeXNN_and_F000 _ x nn

theorem drw (x y n : Nibble) : Statement (.drw x y n) := encodeXYN_and_F000 _ x y n

theorem skp (x : Nibble) : Statement (.skp x) := encodeXNN_and_F0FF _ x _

theorem sknp (x : Nibble) : Statement (.sknp x) := encodeXNN_and_F0FF _ x _

theorem ldVxDt (x : Nibble) : Statement (.ldVxDt x) := encodeXNN_and_F0FF _ x _

theorem ldVxK (x : Nibble) : Statement (.ldVxK x) := encodeXNN_and_F0FF _ x _

theorem ldDtVx (x : Nibble) : Statement (.ldDtVx x) := encodeXNN_and_F0FF _ x _

theorem ldStVx (x : Nibble) : Statement (.ldStVx x) := encodeXNN_and_F0FF _ x _

theorem addI (x : Nibble) : Statement (.addI x) := encodeXNN_and_F0FF _ x _

theorem ldF (x : Nibble) : Statement (.ldF x) := encodeXNN_and_F0FF _ x _

theorem ldB (x : Nibble) : Statement (.ldB x) := encodeXNN_and_F0FF _ x _

theorem ldMemVx (x : Nibble) : Statement (.ldMemVx x) := encodeXNN_and_F0FF _ x _

theorem ldVxMem (x : Nibble) : Statement (.ldVxMem x) := encodeXNN_and_F0FF _ x _

end Sys2Proof.Laws.TableRow
end

