-- ==== Sys2Proof/Laws/Step.lean ====
section
/-! SUPPORT. Everything one step can do, once, and the step of an instruction placed for the fetch. -/

namespace Sys2Proof.Machine

/-- Inversion of the step (R101 to R107): faulted and unchanged, a fetch fault, an illegal opcode, or the execution of the
decoded instruction with `pc` advanced. -/
theorem step_cases (s : State) :
    (s.run = .faulted ∧ step s = .next s) ∨
    (s.run = .running ∧ 0xFFE < s.pc.toNat ∧
      step s = .next (s.raiseFetch (if s.pc = 0xFFF#16 then 0x1000#16 else s.pc))) ∨
    (s.run = .running ∧ s.pc.toNat ≤ 0xFFE ∧ ∃ e, decodeWord (s.readOpcode s.pc.toNat) = .error e ∧
      step s = .next (s.advance.raiseIllegal (s.readOpcode s.pc.toNat))) ∨
    (s.run = .running ∧ s.pc.toNat ≤ 0xFFE ∧ ∃ i, decodeWord (s.readOpcode s.pc.toNat) = .ok i ∧
      step s = exec i s.advance) := by
  cases hr : s.run with
  | faulted => exact .inl ⟨rfl, by simp only [step, hr]⟩
  | running =>
    by_cases hp : 0xFFE < s.pc.toNat
    · exact .inr (.inl ⟨rfl, hp, by simp only [step, hr, State.fetch_error hp]⟩)
    · have hp : s.pc.toNat ≤ 0xFFE := by omega
      cases hd : decodeWord (s.readOpcode s.pc.toNat) with
      | error e => exact .inr (.inr (.inl ⟨rfl, hp, e, rfl, by simp only [step, hr, State.fetch_ok hp, hd]⟩))
      | ok i => exact .inr (.inr (.inr ⟨rfl, hp, i, rfl, by simp only [step, hr, State.fetch_ok hp, hd]⟩))

/-- A placed opcode that decodes is the very next instruction executed. -/
theorem step_withFetchWord {s : State} {nbits w : Nat} {i : Instr} (hm : Memory.wf s.mem) (hp : s.pc.toNat ≤ 0xFFE)
    (hd : decodeWord (tableWord nbits w) = .ok i) :
    step (s.withFetchWord nbits w) = exec i (s.withFetchWord nbits w).advance := by
  have hpc : (s.withFetchWord nbits w).pc = s.pc := by
    simp only [State.withFetchWord, State.placeWord]; repeat' split
    all_goals rfl
  have hrun : (s.withFetchWord nbits w).run = .running := by
    simp only [State.withFetchWord, State.placeWord]
    have : s.run ≠ .faulted → s.run = .running := by cases s.run <;> simp
    repeat' split
    all_goals simp_all
  have hop : (s.withFetchWord nbits w).readOpcode s.pc.toNat = tableWord nbits w := State.readOpcode_placeWord _ hm hp
  rw [← hpc] at hop hp
  rcases step_cases (s.withFetchWord nbits w) with ⟨h, -⟩ | ⟨-, h, -⟩ | ⟨-, -, e, h, -⟩ | ⟨-, -, j, h, hs⟩
  · rw [hrun] at h; cases h
  · omega
  · rw [hop, hd] at h; cases h
  · rw [hop, hd] at h; cases h; exact hs

end Sys2Proof.Machine
end

