-- ==== Sys2Proof/Tests/Slice0.lean ====
section
/-! SUPPORT. Tests: the WellFormed smoke test, decoding of words written out in 95_test_vectors.md, one-step vectors of that file
(its id stands in each comment), and witnesses that meet the hypotheses of the statements. -/

namespace Sys2Proof.Tests

open Sys2Proof Sys2Proof.Machine

/-! ### WellFormed -/

theorem test_wellFormed_refuses_sys_of_cls : (Instr.sys 0x0E0).wellFormed = false := by decide
theorem test_wellFormed_refuses_sys_of_ret : (Instr.sys 0x0EE).wellFormed = false := by decide
theorem test_wellFormed_admits_neighbour : (Instr.sys 0x0E1).wellFormed = true := by decide

/-! ### Decoding (the decode table of 95_test_vectors.md 2.1) -/

theorem test_decode_cls : decodeWord 0x00E0#16 = .ok .cls := by decide
theorem test_decode_ret : decodeWord 0x00EE#16 = .ok .ret := by decide
theorem test_decode_sys : decodeWord 0x0123#16 = .ok (.sys 0x123) := by decide
theorem test_decode_jp : decodeWord 0x1ABC#16 = .ok (.jp 0xABC) := by decide
theorem test_decode_call : decodeWord 0x2ABC#16 = .ok (.call 0xABC) := by decide
theorem test_decode_seImm : decodeWord 0x3A5C#16 = .ok (.seImm 0xA 0x5C) := by decide
theorem test_decode_sneImm : decodeWord 0x4A5C#16 = .ok (.sneImm 0xA 0x5C) := by decide
theorem test_decode_seReg : decodeWord 0x5AB0#16 = .ok (.seReg 0xA 0xB) := by decide
theorem test_decode_ldImm : decodeWord 0x6A5C#16 = .ok (.ldImm 0xA 0x5C) := by decide
theorem test_decode_addImm : decodeWord 0x7A5C#16 = .ok (.addImm 0xA 0x5C) := by decide
theorem test_decode_ldReg : decodeWord 0x8AB0#16 = .ok (.ldReg 0xA 0xB) := by decide
theorem test_decode_orReg : decodeWord 0x8AB1#16 = .ok (.orReg 0xA 0xB) := by decide
theorem test_decode_andReg : decodeWord 0x8AB2#16 = .ok (.andReg 0xA 0xB) := by decide
theorem test_decode_xorReg : decodeWord 0x8AB3#16 = .ok (.xorReg 0xA 0xB) := by decide
theorem test_decode_addReg : decodeWord 0x8AB4#16 = .ok (.addReg 0xA 0xB) := by decide
theorem test_decode_sub : decodeWord 0x8AB5#16 = .ok (.sub 0xA 0xB) := by decide
theorem test_decode_shr : decodeWord 0x8AB6#16 = .ok (.shr 0xA 0xB) := by decide
theorem test_decode_subn : decodeWord 0x8AB7#16 = .ok (.subn 0xA 0xB) := by decide
theorem test_decode_shl : decodeWord 0x8ABE#16 = .ok (.shl 0xA 0xB) := by decide
theorem test_decode_sneReg : decodeWord 0x9AB0#16 = .ok (.sneReg 0xA 0xB) := by decide
theorem test_decode_ldI : decodeWord 0xAABC#16 = .ok (.ldI 0xABC) := by decide
theorem test_decode_jpV0 : decodeWord 0xBABC#16 = .ok (.jpV0 0xABC) := by decide
theorem test_decode_rnd : decodeWord 0xCA5C#16 = .ok (.rnd 0xA 0x5C) := by decide
theorem test_decode_drw : decodeWord 0xDAB7#16 = .ok (.drw 0xA 0xB 7) := by decide
theorem test_decode_skp : decodeWord 0xEA9E#16 = .ok (.skp 0xA) := by decide
theorem test_decode_sknp : decodeWord 0xEAA1#16 = .ok (.sknp 0xA) := by decide
theorem test_decode_ldVxDt : decodeWord 0xFA07#16 = .ok (.ldVxDt 0xA) := by decide
theorem test_decode_ldVxK : decodeWord 0xFA0A#16 = .ok (.ldVxK 0xA) := by decide
theorem test_decode_ldDtVx : decodeWord 0xFA15#16 = .ok (.ldDtVx 0xA) := by decide
theorem test_decode_ldStVx : decodeWord 0xFA18#16 = .ok (.ldStVx 0xA) := by decide
theorem test_decode_addI : decodeWord 0xFA1E#16 = .ok (.addI 0xA) := by decide
theorem test_decode_ldF : decodeWord 0xFA29#16 = .ok (.ldF 0xA) := by decide
theorem test_decode_ldB : decodeWord 0xFA33#16 = .ok (.ldB 0xA) := by decide
theorem test_decode_ldMemVx : decodeWord 0xFA55#16 = .ok (.ldMemVx 0xA) := by decide
theorem test_decode_ldVxMem : decodeWord 0xFA65#16 = .ok (.ldVxMem 0xA) := by decide

/-- E7: words that are illegal. -/
theorem test_decode_illegal :
    [0x5FF1#16, 0x8008#16, 0x8009#16, 0x800A#16, 0x800B#16, 0x800C#16, 0x800D#16, 0x800F#16, 0x9121#16, 0xE000#16, 0xE09F#16,
      0xE0A0#16, 0xF000#16, 0xF008#16, 0xF064#16, 0xF066#16, 0xFFFF#16].map decodeWord =
    [0x5FF1#16, 0x8008#16, 0x8009#16, 0x800A#16, 0x800B#16, 0x800C#16, 0x800D#16, 0x800F#16, 0x9121#16, 0xE000#16, 0xE09F#16,
      0xE0A0#16, 0xF000#16, 0xF008#16, 0xF064#16, 0xF066#16, 0xFFFF#16].map (fun w => .error (.illegal w)) := by decide

/-- E10, E11, R151: the neighbours of 00E0 and 00EE, and 0000, are calls. -/
theorem test_decode_sys_neighbours : decodeWord 0x00E1#16 = .ok (.sys 0x0E1) ∧ decodeWord 0x00EF#16 = .ok (.sys 0x0EF) ∧
    decodeWord 0x0000#16 = .ok (.sys 0) := by decide

theorem test_decode_truncated : decodeBytes [0x12] = .error .truncated := by decide
theorem test_decodeTableWord : decodeTableWord 16 0xDAB7 = some (.drw 0xA 0xB 7) := by decide

/-! ### One step -/

/-- The state after one step of the word `w` placed at `pc`. -/
def stepWord (s : State) (w : Nat) : State :=
  match step (s.withFetchWord 16 w) with
  | .next t => t
  | .fault _ => s
  | .refused _ => s

/-- The reset state with two registers set. -/
def regs2 (x : Nibble) (a : Byte) (y : Nibble) (b : Byte) : State := (State.reset.writeReg x a).writeReg y b

/-- The reset state with `sp` entries on the stack and the first slot given. -/
def withStack (sp : Fin 17) (a : Word) : State := { State.reset with sp := sp, stack := State.reset.stack.set 0 a }

/-- The reset state with `I`, a sprite or data at `I`, and VF = 0x55. -/
def withData (i : Word) (bs : List Byte) : State :=
  ((State.reset.writeReg 0xF 0x55).setI i).setMem (memWriteList [] i.toNat bs)

/-- The state with another choice of the OPEN parameters. -/
def otherParams (s : State) : State := { s with params := ⟨.trunc8, .at000, .tableOrder⟩ }

-- E1 (big-endian fetch), E2 (odd pc), E5, E6
theorem test_step_bigEndian : (stepWord State.reset 0x1234).pc = 0x234 := by decide
theorem test_step_oddPc : (stepWord (State.reset.setPc 0x201) 0x607F).readReg 0 = 0x7F ∧
    (stepWord (State.reset.setPc 0x201) 0x607F).pc = 0x203 := by decide
theorem test_step_fetchFault : (stepWord (State.reset.setPc 0xFFF) 0).faultInfo = 0x1000 ∧
    (stepWord (State.reset.setPc 0xFFF) 0).pc = 0xFFF ∧ (stepWord (State.reset.setPc 0xFFF) 0).faultCode = 5 := by decide
theorem test_step_illegal : (stepWord State.reset 0x5121).faultOpcode = 0x5121 ∧ (stepWord State.reset 0x5121).pc = 0x202 ∧
    (stepWord State.reset 0x5121).faultPc = 0x200 ∧ (stepWord State.reset 0x5121).faultCode = 2 := by decide

-- S3, S7, D3, D5, D7, D10
theorem test_cls : (stepWord (State.reset.setFb (fbPut State.reset.fb 3 4 true)) 0x00E0).pixel 3 4 = false ∧
    (stepWord State.reset 0x00E0).redraw = true := by decide
theorem test_drw_wraps : (stepWord ((withData 0x300 [0xFF]).writeReg 0xA 60 |>.writeReg 0xB 31) 0xDAB1).pixel 3 31 = true ∧
    (stepWord ((withData 0x300 [0xFF]).writeReg 0xA 60 |>.writeReg 0xB 31) 0xDAB1).readReg 0xF = 0 := by decide
theorem test_drw_collision :
    (stepWord ((withData 0x300 [0xC0]).setFb (fbPut State.reset.fb 1 0 true)) 0xD011).readReg 0xF = 1 := by decide

-- F1, F3, F4, F5, F6, F7, F10, B5, B6
theorem test_jp : (stepWord State.reset 0x1FFF).pc = 0xFFF := by decide
theorem test_call : (stepWord (State.reset.setPc 0x204) 0x2210).stack[0] = 0x206 ∧
    (stepWord (State.reset.setPc 0x204) 0x2210).sp = 1 ∧ (stepWord (State.reset.setPc 0x204) 0x2210).pc = 0x210 := by decide
theorem test_call_overflow : (stepWord (withStack 16 0) 0x2400).faultCode = 4 ∧
    (stepWord (withStack 16 0) 0x2400).faultInfo = 16 := by decide
theorem test_ret : (stepWord (withStack 1 0x206) 0x00EE).pc = 0x206 ∧ (stepWord (withStack 1 0x206) 0x00EE).sp = 0 := by decide
theorem test_ret_underflow : (stepWord State.reset 0x00EE).faultCode = 3 ∧
    (stepWord State.reset 0x00EE).faultOpcode = 0x00EE ∧ (stepWord State.reset 0x00EE).pc = 0x202 := by decide
theorem test_sys : (stepWord State.reset 0x0300).stack[0] = 0x202 ∧ (stepWord State.reset 0x0300).pc = 0x300 := by decide
theorem test_jpV0_full : (stepWord (State.reset.writeReg 0 0xFF) 0xBFFF).pc = 0x10FE := by decide
theorem test_jpV0_trunc8 : (stepWord (otherParams (regs2 0 0x01 5 0x99)) 0xB5A0).pc = 0x0A1 := by decide

-- K1 to K9, K13
theorem test_seImm : (stepWord (State.reset.writeReg 3 0x42) 0x3342).pc = 0x204 := by decide
theorem test_sneImm : (stepWord (State.reset.writeReg 3 0x42) 0x4342).pc = 0x202 := by decide
theorem test_seReg : (stepWord (regs2 1 7 2 8) 0x5120).pc = 0x202 := by decide
theorem test_sneReg : (stepWord (regs2 1 7 2 8) 0x9120).pc = 0x204 := by decide

-- A1 to A27, X1 to X7
theorem test_ldImm : (stepWord State.reset 0x6A3C).readReg 0xA = 0x3C := by decide
theorem test_addImm : (stepWord (regs2 0 0xFF 0xF 0x55) 0x7001).readReg 0 = 0 ∧
    (stepWord (regs2 0 0xFF 0xF 0x55) 0x7001).readReg 0xF = 0x55 := by decide
theorem test_ldReg : (stepWord (State.reset.writeReg 2 0x99) 0x8120).readReg 1 = 0x99 := by decide
theorem test_or : (stepWord (regs2 1 0x0F 2 0xF0) 0x8121).readReg 1 = 0xFF := by decide
theorem test_and : (stepWord (regs2 1 0x3C 2 0x0F) 0x8122).readReg 1 = 0x0C := by decide
theorem test_xor : (stepWord (regs2 1 0x3C 2 0x0F) 0x8123).readReg 1 = 0x33 := by decide
theorem test_addReg_carry : (stepWord (regs2 1 0xFF 2 0x02) 0x8124).readReg 1 = 0x01 ∧
    (stepWord (regs2 1 0xFF 2 0x02) 0x8124).readReg 0xF = 1 := by decide
theorem test_addReg_vf : (stepWord (regs2 0xF 0xFF 1 0x02) 0x8F14).readReg 0xF = 1 := by decide
theorem test_sub_borrow : (stepWord (regs2 1 0x03 2 0x05) 0x8125).readReg 1 = 0xFE ∧
    (stepWord (regs2 1 0x03 2 0x05) 0x8125).readReg 0xF = 0 := by decide
theorem test_sub_equal : (stepWord (regs2 1 7 2 7) 0x8125).readReg 0xF = 1 := by decide
theorem test_shr : (stepWord (regs2 1 0x04 2 0xFF) 0x8126).readReg 1 = 0x02 ∧
    (stepWord (regs2 1 0x05 2 0xFF) 0x8126).readReg 0xF = 1 := by decide
theorem test_shr_vf : (stepWord (State.reset.writeReg 0xF 0x03) 0x8F06).readReg 0xF = 1 ∧
    (stepWord (otherParams (State.reset.writeReg 0xF 0x03)) 0x8F06).readReg 0xF = 0 := by decide
theorem test_subn : (stepWord (regs2 1 0x05 2 0x03) 0x8127).readReg 1 = 0xFE ∧
    (stepWord (regs2 1 0x05 2 0x03) 0x8127).readReg 0xF = 0 := by decide
theorem test_shl : (stepWord (State.reset.writeReg 1 0x81) 0x810E).readReg 1 = 0x02 ∧
    (stepWord (State.reset.writeReg 1 0x81) 0x810E).readReg 0xF = 1 := by decide
theorem test_shl_vf : (stepWord (State.reset.writeReg 0xF 0x81) 0x8F0E).readReg 0xF = 1 ∧
    (stepWord (otherParams (State.reset.writeReg 0xF 0x81)) 0x8F0E).readReg 0xF = 2 := by decide
theorem test_rnd : (rndResult 3 0x0F 0xA5 State.reset).readReg 3 = 0x05 := by decide

-- M1 to M21, G2, G5
theorem test_ldI : (stepWord State.reset 0xA300).I = 0x300 := by decide
theorem test_addI_wraps : (stepWord ((State.reset.writeReg 2 2).setI 0xFFFF) 0xF21E).I = 0x0001 := by decide
theorem test_ldF : (stepWord (State.reset.writeReg 0 7) 0xF029).I = 0x073 ∧
    (stepWord (otherParams (State.reset.writeReg 0 7)) 0xF029).I = 0x023 := by decide
theorem test_ldF_pastFont : (stepWord (State.reset.writeReg 0 0xFF) 0xF029).I = 0x54B := by decide
theorem test_ldB : (stepWord ((State.reset.writeReg 0 0xFE).setI 0x300) 0xF033).mem =
    [(0x200, 0xF0), (0x201, 0x33), (0x300, 2), (0x301, 5), (0x302, 4)] := by decide
theorem test_ldB_fault : (stepWord ((State.reset.writeReg 0 0x7B).setI 0xFFE) 0xF033).faultInfo = 0x1000 ∧
    (stepWord ((State.reset.writeReg 0 0x7B).setI 0xFFE) 0xF033).readMem 0xFFE = 0 := by decide
theorem test_ldMemVx : (stepWord ((regs2 0 1 3 4).setI 0xFFC) 0xF355).readMem 0xFFF = 4 ∧
    (stepWord ((regs2 0 1 3 4).setI 0xFFC) 0xF355).readMem 0xFFC = 1 := by decide
theorem test_ldMemVx_fault : (stepWord (State.reset.setI 0xFFD) 0xF355).faultCode = 5 := by decide
theorem test_ldVxMem : (stepWord (withData 0x300 [2, 5, 4, 9]) 0xF265).readReg 2 = 4 ∧
    (stepWord (withData 0x300 [2, 5, 4, 9]) 0xF265).readReg 3 = 0 := by decide
theorem test_ldVxMem_fault : (stepWord (State.reset.setI 0x2000) 0xF065).faultInfo = 0x2000 := by decide

-- T1 to T16
theorem test_skp : (stepWord ((State.reset.writeReg 1 5).deliverKey 5 true) 0xE19E).pc = 0x204 := by decide
theorem test_skp_index : (stepWord (State.reset.writeReg 1 0x10) 0xE19E).faultCode = 6 ∧
    (stepWord (State.reset.writeReg 1 0x10) 0xE19E).faultInfo = 0x10 := by decide
theorem test_sknp : (stepWord (State.reset.writeReg 1 5) 0xE1A1).pc = 0x204 := by decide
theorem test_ldVxDt : (stepWord (State.reset.setDT 0x3C) 0xF507).readReg 5 = 0x3C := by decide
theorem test_ldVxK_waits : (stepWord (State.reset.setPc 0x300) 0xF30A).pc = 0x300 := by decide
theorem test_ldVxK_lowest : (stepWord ((State.reset.deliverKey 9 true).deliverKey 3 true) 0xF30A).readReg 3 = 3 := by decide
theorem test_ldDtVx : (stepWord (State.reset.writeReg 2 0x3C) 0xF215).DT = 0x3C := by decide
theorem test_ldStVx : (stepWord (State.reset.writeReg 2 0x02) 0xF218).soundShouldPlay = true := by decide
theorem test_tick : (State.reset.setST 3).tickTimers.ST = 2 ∧ (State.reset.setST 3).tickTimers.DT = 0 := by decide

-- R1, S2, R31: construct, and the reset state as a construct of a program of zeros (log entry 4)
theorem test_construct : ((State.reset.setI 7).construct [0x00, 0xE0]).mem = [(0x201, 0xE0)] ∧
    ((State.reset.setI 7).construct [0x00, 0xE0]).I = 0 := by decide
theorem test_construct_empty : (State.reset.construct []).faultCode = 1 ∧ (State.reset.construct []).faultPc = 0x200 := by decide
theorem test_reset_is_construct_of_zero : State.reset.construct [0] = State.reset := by decide
theorem test_font : font.length = 80 ∧ State.reset.readMem 0x050 = 0xF0 ∧ State.reset.readMem 0x076 = 0x40 ∧
    State.reset.readMem 0x09F = 0x80 ∧ State.reset.readMem 0x04F = 0 ∧ State.reset.readMem 0x0A0 = 0 := by decide

-- R3: the key event of a cycle is seen by its step
theorem test_cycle_key_before_step :
    (match cycle ⟨none, some (6, true), false, true, false⟩ (State.reset.withFetchWord 16 0xF00A) with
      | .next t => t.readReg 0
      | _ => 0) = 6 := by decide
-- R4: the clear of a cycle comes before its step, whose draw sets the flag again
theorem test_cycle_clear_before_step :
    (match cycle ⟨none, none, true, true, false⟩ (({ State.reset with redraw := true } : State).withFetchWord 16 0xD010) with
      | .next t => t.redraw
      | _ => false) = true := by decide
-- R5: the step of a cycle reads DT before its tick
theorem test_cycle_step_before_tick :
    (match cycle ⟨none, none, false, true, true⟩ ((State.reset.setDT 1).withFetchWord 16 0xF107) with
      | .next t => (t.readReg 1, t.DT)
      | _ => (0, 0)) = (1, 0) := by decide

/-! ### Witnesses: states and operands that meet the hypotheses of each statement, at the edges of its clauses -/

/-- A state inside a subroutine, with a stored byte. -/
def inCall : State := { (withStack 1 0x206) with pc := 0x210, mem := [(0x300, 5)] }

/-- A faulted state. -/
def faulted : State := State.reset.raise .illegalInstruction 0x1FE 0x5121 0

theorem test_witness_DecodeOfEncode : (Instr.sys 0x0E1).wellFormed = true ∧ (Instr.drw 0xF 0 0xF).wellFormed = true := by decide
theorem test_witness_EncodeOfDecode : decodeWord 0x00EF#16 = .ok (.sys 0x0EF) := by decide

theorem test_witness_StepRunsTheDecodedInstruction :
    ∃ s : State, s.run = .running ∧ s.pc.toNat = 0xFFE ∧
      decodeWord (s.readMem s.pc.toNat ++ s.readMem (s.pc.toNat + 1)) = .ok .cls :=
  ⟨(State.reset.setPc 0xFFE).withFetchWord 16 0x00E0, by decide, by decide, by decide⟩

theorem test_witness_FetchPastMemoryFaults :
    (State.reset.setPc 0xFFF).run = .running ∧ 0xFFE < (State.reset.setPc 0xFFF).pc.toNat ∧
      0xFFE < (State.reset.setPc 0x1000).pc.toNat := by decide

theorem test_witness_IllegalOpcodeFaults :
    ∃ s : State, s.run = .running ∧ s.pc.toNat ≤ 0xFFE ∧
      (0x5121 : Word) = s.readMem s.pc.toNat ++ s.readMem (s.pc.toNat + 1) ∧
      decodeWord 0x5121 = .error (.illegal 0x5121) :=
  ⟨State.reset.withFetchWord 16 0x5121, by decide, by decide, by decide, by decide⟩

theorem test_witness_FaultedEngineIsFinal :
    faulted.run = .faulted ∧ (⟨none, some (5, true), true, true, true⟩ : Requests).construct = none := by decide

theorem test_witness_HaltedEngineStaysPut : Halted (State.reset.withFetchWord 16 0x1200) :=
  ⟨by decide, by decide, by decide⟩

theorem test_witness_RequestOrderInACycle :
    (⟨none, some (6, true), true, true, true⟩ : Requests).construct = none ∧
      (⟨none, none, false, false, false⟩ : Requests).construct = none ∧
      (⟨some [0], none, false, true, false⟩ : Requests).construct = some [0] := ⟨rfl, rfl, rfl⟩

theorem test_witness_inv : Inv inCall :=
  ⟨by decide, ⟨by decide, by decide, by decide, by decide⟩, by decide, by decide⟩

theorem test_witness_StepKeepsInv : Inv inCall ∧ ∃ t, step inCall = .next t := ⟨test_witness_inv, ⟨_, rfl⟩⟩

theorem test_witness_HostOperationsKeepInv :
    Inv inCall ∧ ∃ t, cycle ⟨none, some (6, true), true, true, true⟩ inCall = .next t := ⟨test_witness_inv, ⟨_, rfl⟩⟩

theorem test_witness_CanonicalMemoryIsUnique :
    Memory.wf [(0x050, 0), (0x300, 5), (0xFFF, 1)] ∧ ¬ Memory.wf [(0x300, 0)] ∧ ¬ Memory.wf [(0x1000, 5)] := by decide

theorem test_witness_ConstructLoadsTheProgram :
    1 ≤ [(0xAB : Byte)].length ∧ (List.replicate 3584 (0 : Byte)).length = 3584 :=
  ⟨by decide, List.length_replicate⟩

theorem test_witness_ConstructRefusesBadLength :
    ([] : List Byte).length = 0 ∧ 3584 < (List.replicate 3585 (0 : Byte)).length :=
  ⟨rfl, by rw [List.length_replicate]; decide⟩

theorem test_witness_ExecWritesOnlyItsPieces :
    ownFault (.drw 0 0 0) (State.reset.setI 0xFFFF) = none ∧ ownFault (.drw 0 0 1) (State.reset.setI 0xFFF) = none ∧
    ownFault (.ldB 0) (State.reset.setI 0xFFD) = none ∧ ownFault (.ldMemVx 3) (State.reset.setI 0xFFC) = none ∧
    ownFault (.ldVxMem 0) (State.reset.setI 0xFFF) = none ∧ ownFault .ret (withStack 1 0) = none ∧
    ownFault (.call 0) (withStack 15 0) = none ∧ ownFault (.sys 0) (withStack 15 0) = none ∧
    ownFault (.skp 1) (State.reset.writeReg 1 15) = none ∧ ownFault (.sknp 1) (State.reset.writeReg 1 15) = none ∧
    ownFault (.jp 0) State.reset = none := by decide

theorem test_witness_ExecWritesOnlyItsRegisters :
    (∃ t, exec (.addReg 1 2) State.reset = .next t) ∧ ¬ mayWriteReg (.addReg 1 2) 2 := by
  refine ⟨⟨_, rfl⟩, ?_⟩
  show ¬ ((2 : Nibble) = 1 ∨ (2 : Nibble) = 0xF#4)
  decide

theorem test_witness_ExecStoresOnlyItsBytes :
    (∃ t, exec (.ldB 0) (State.reset.setI 0x300) = .next t) ∧
      0x2FF < (State.reset.setI 0x300).I.toNat ∧ (State.reset.setI 0x300).I.toNat + storedBytes (.ldB 0) ≤ 0x303 :=
  ⟨⟨_, rfl⟩, by decide, by decide⟩

theorem test_witness_ExecFaultIsPrecise :
    ownFault (.drw 0 0 2) (State.reset.setI 0xFFF) = some (.memoryOutOfRange, 0x1000) ∧
    ownFault (.ldB 0) (State.reset.setI 0xFFE) = some (.memoryOutOfRange, 0x1000) ∧
    ownFault (.ldMemVx 3) (State.reset.setI 0xFFD) = some (.memoryOutOfRange, 0x1000) ∧
    ownFault (.ldVxMem 0) (State.reset.setI 0x2000) = some (.memoryOutOfRange, 0x2000) ∧
    ownFault .ret State.reset = some (.stackUnderflow, 0) ∧ ownFault (.call 0) (withStack 16 0) = some (.stackOverflow, 16) ∧
    ownFault (.sys 0) (withStack 16 0) = some (.stackOverflow, 16) ∧
    ownFault (.skp 1) (State.reset.writeReg 1 0x10) = some (.keyIndexOutOfRange, 0x10) ∧
    ownFault (.sknp 1) (State.reset.writeReg 1 0xFF) = some (.keyIndexOutOfRange, 0xFF) := by decide

theorem test_witness_StepRecordsTheFetchedOpcode :
    ∃ s : State, s.run = .running ∧ s.pc.toNat ≤ 0xFFE ∧
      (0x00EE : Word) = s.readMem s.pc.toNat ++ s.readMem (s.pc.toNat + 1) ∧ decodeWord 0x00EE = .ok .ret ∧
      ownFault .ret { s with pc := s.pc + 2 } = some (.stackUnderflow, 0) :=
  ⟨State.reset.withFetchWord 16 0x00EE, by decide, by decide, by decide, by decide, by decide⟩

theorem test_witness_VfOrderMattersOnlyForShiftsOfVF :
    ∀ x y : Nibble, Instr.shr 0xE 0xF = .shr x y ∨ Instr.shr 0xE 0xF = .shl x y → x ≠ 0xF#4 := by
  rintro x y (h | h) <;> cases h
  decide

/-- One word a row for the statements that begin with a mask and a match. -/
theorem test_witness_masks :
    0x00E0#16 &&& 0xFFFF#16 = 0x00E0#16 ∧ 0x1FFF#16 &&& 0xF000#16 = 0x1000#16 ∧ 0xB5A0#16 &&& 0xF000#16 = 0xB000#16 ∧
    0x3F01#16 &&& 0xF000#16 = 0x3000#16 ∧ 0x4342#16 &&& 0xF000#16 = 0x4000#16 ∧ 0x5110#16 &&& 0xF00F#16 = 0x5000#16 ∧
    0x9110#16 &&& 0xF00F#16 = 0x9000#16 ∧ 0x6FFF#16 &&& 0xF000#16 = 0x6000#16 ∧ 0x7F01#16 &&& 0xF000#16 = 0x7000#16 ∧
    0x8FF0#16 &&& 0xF00F#16 = 0x8000#16 ∧ 0x8F14#16 &&& 0xF00F#16 = 0x8004#16 ∧ 0x8F15#16 &&& 0xF00F#16 = 0x8005#16 ∧
    0x8F06#16 &&& 0xF00F#16 = 0x8006#16 ∧ 0x8F17#16 &&& 0xF00F#16 = 0x8007#16 ∧ 0x8F0E#16 &&& 0xF00F#16 = 0x800E#16 ∧
    0xC300#16 &&& 0xF000#16 = 0xC000#16 ∧ 0xAFFF#16 &&& 0xF000#16 = 0xA000#16 ∧ 0xFF07#16 &&& 0xF0FF#16 = 0xF007#16 ∧
    0xFF15#16 &&& 0xF0FF#16 = 0xF015#16 ∧ 0xFF18#16 &&& 0xF0FF#16 = 0xF018#16 := by decide

theorem test_witness_RegisterSkips :
    (0x5121#16 &&& 0xF000#16 = 0x5000#16 ∧ 0x5121#16 &&& 0x000F#16 ≠ 0) ∧
    (0x912F#16 &&& 0xF000#16 = 0x9000#16 ∧ 0x912F#16 &&& 0x000F#16 ≠ 0) ∧
    ∃ s : State, s.run = .running ∧ s.pc.toNat ≤ 0xFFE ∧ s.readMem s.pc.toNat ++ s.readMem (s.pc.toNat + 1) = 0x5121#16 :=
  ⟨by decide, by decide, State.reset.withFetchWord 16 0x5121, by decide, by decide, by decide⟩

theorem test_witness_DrwFlipsTheSpritePixels :
    ((0 : Nibble).toNat = 0) ∧ (State.reset.setI 0xFFF).I.toNat + (1 : Nibble).toNat - 1 ≤ 0xFFF ∧
    (State.reset.setI 0xFF1).I.toNat + (0xF : Nibble).toNat - 1 ≤ 0xFFF := by decide

/-- Both sides of a draw's pixel clauses and of its collision clauses occur. -/
theorem test_witness_spriteCovers :
    SpriteCovers (withData 0x300 [0x80]) 63 31 1 63 31 ∧ ¬ SpriteCovers (withData 0x300 [0x80]) 63 31 0 63 31 ∧
    ((withData 0x300 [0x80]).setFb (fbPut State.reset.fb 63 31 true)).pixel 63 31 = true :=
  ⟨⟨0, 0, by decide, by decide, by decide, by decide, by decide⟩, fun ⟨_, _, h, _⟩ => absurd h (Nat.not_lt_zero _), by decide⟩

theorem test_witness_DrwTwiceRestoresThePixels :
    (0 : Nibble) ≠ 0xF#4 ∧ (withData 0xFFF [0x80]).I.toNat + (1 : Nibble).toNat - 1 ≤ 0xFFF ∧
    ∃ t, exec (.drw 0 0 1) (withData 0xFFF [0x80]) = .next t := ⟨by decide, by decide, ⟨_, rfl⟩⟩

theorem test_witness_CallAndSysPush : (withStack 15 0).sp.val < 16 ∧ (withStack 16 0).sp.val = 16 := by decide
theorem test_witness_RetPops : 0 < (withStack 1 0x206).sp.val ∧ State.reset.sp.val = 0 := by decide

theorem test_witness_ReturnUndoesCall :
    ((withStack 15 0).sp.val < 16 ∧ ∃ t, exec (.call 0x300) (withStack 15 0) = .next t) ∧
      State.reset.sp.val < 16 ∧ ∃ t, exec (.sys 0x300) State.reset = .next t :=
  ⟨⟨by decide, ⟨_, rfl⟩⟩, by decide, ⟨_, rfl⟩⟩

/-- Both values of each OPEN parameter occur, for the statements with a clause a value. -/
theorem test_witness_params :
    State.reset.params = ⟨.full, .at050, .flagLast⟩ ∧ (otherParams State.reset).params = ⟨.trunc8, .at000, .tableOrder⟩ := by
  decide

theorem test_witness_StoreDecimalDigits :
    Memory.wf (State.reset.setI 0xFFD).mem ∧ (State.reset.setI 0xFFD).I.toNat + 2 = 0xFFF := by decide

theorem test_witness_StoreRegisters :
    Memory.wf (State.reset.setI 0xFF0).mem ∧ (State.reset.setI 0xFF0).I.toNat + (0xF : Nibble).toNat = 0xFFF := by decide

theorem test_witness_LoadRegisters : (withData 0xFFF [5]).I.toNat + (0 : Nibble).toNat = 0xFFF := by decide

theorem test_witness_StoreThenLoadRestoresRegisters :
    ∃ s t u : State, Memory.wf s.mem ∧ s.I.toNat + (3 : Nibble).toNat ≤ 0xFFF ∧ exec (.ldMemVx 3) s = .next t ∧
      u.mem = t.mem ∧ u.I = t.I ∧ u ≠ t :=
  ⟨(regs2 0 1 3 4).setI 0xFFC, _, (stepWord ((regs2 0 1 3 4).setI 0xFFC) 0xF355).setMem
    (memWriteList [] 0xFFC [1, 0, 0, 4]), by decide, by decide, rfl, by decide, by decide, by decide⟩

theorem test_witness_KeySkips :
    ((State.reset.writeReg 1 15).readReg 1).toNat = (0xF : Nibble).toNat ∧ 15 < ((State.reset.writeReg 1 16).readReg 1).toNat := by
  decide

theorem test_witness_KeyWait :
    (State.reset.deliverKey 3 true).keyDown 3 = true ∧
    (∀ j : Nibble, j.toNat < (3 : Nibble).toNat → (State.reset.deliverKey 3 true).keyDown j = false) ∧
    ∀ j, State.reset.keyDown j = false := by decide

/-- The premise of the statements on ticks, on the timers' instructions and on key events. -/
theorem test_witness_TicksCountDown_SoundTimerPlays_DelayTimerAccess_KeyEventAndRedrawClear : State.reset.run = .running := by decide

end Sys2Proof.Tests
end

section
/-! SUPPORT. The opcode's fields as numbers (30_encoding.md R81): a slice of a word is a quotient by the power of two below
it, taken modulo the power of two of its width. -/

namespace Sys2Proof

section FieldNumbers
variable (w : Word)

/-- The one arithmetic fact behind every field. -/
theorem toNat_extractLsb'_eq_div_mod (start len : Nat) :
    (w.extractLsb' start len).toNat = w.toNat / 2 ^ start % 2 ^ len := by
  rw [BitVec.extractLsb'_toNat, Nat.shiftRight_eq_div_pow]

/-- A slice that starts at bit 0 needs no quotient. -/
theorem toNat_extractLsb'_zero_eq_mod (len : Nat) : (w.extractLsb' 0 len).toNat = w.toNat % 2 ^ len := by
  rw [toNat_extractLsb'_eq_div_mod, Nat.pow_zero, Nat.div_one]

/-- Nothing lies above `op`, so its quotient needs no remainder. -/
theorem toNat_fieldOp : (fieldOp w).toNat = w.toNat / 4096 := by
  have hslice : (fieldOp w).toNat = w.toNat / 4096 % 16 := toNat_extractLsb'_eq_div_mod w 12 4
  have hquot : w.toNat / 4096 < 16 := Nat.div_lt_of_lt_mul w.isLt
  rw [hslice, Nat.mod_eq_of_lt hquot]

theorem toNat_fieldX : (fieldX w).toNat = w.toNat / 256 % 16 := toNat_extractLsb'_eq_div_mod w 8 4

theorem toNat_fieldY : (fieldY w).toNat = w.toNat / 16 % 16 := toNat_extractLsb'_eq_div_mod w 4 4

theorem toNat_fieldN : (fieldN w).toNat = w.toNat % 16 := toNat_extractLsb'_zero_eq_mod w 4

theorem toNat_fieldNN : (fieldNN w).toNat = w.toNat % 256 := toNat_extractLsb'_zero_eq_mod w 8

theorem toNat_fieldNNN : (fieldNNN w).toNat = w.toNat % 4096 := toNat_extractLsb'_zero_eq_mod w 12

end FieldNumbers

/-- Settles O1, field by field. -/
theorem opcodeFields : Obligations.OpcodeFields := fun w =>
  ⟨toNat_fieldOp w, toNat_fieldX w, toNat_fieldY w, toNat_fieldN w, toNat_fieldNN w, toNat_fieldNNN w⟩

end Sys2Proof
end

section
/-! SUPPORT. The display (41_display.md): what replacing the framebuffer leaves unchanged, and the clear screen instruction. -/

namespace Sys2Proof

open Sys2Proof.Machine

/-- A replaced framebuffer is a change of the pixels and the redraw flag alone (R34). -/
theorem unchanged_setFb (s : State) (f : Framebuffer) : Unchanged [.pixels, .redraw] s (s.setFb f) := by
  have hfault : SameFault s (s.setFb f) := ⟨rfl, rfl, rfl, rfl, rfl⟩
  apply unchanged_of_fields <;> simp [hfault]

/-- A cleared framebuffer reads as unset everywhere in the state too (R132). -/
theorem pixel_setFb_fbClear (s : State) (x y : Nat) : (s.setFb fbClear).pixel x y = false := fbGet_fbClear x y

/-- The mask of a row without operands keeps the whole word, so the row matches its own word alone (R85). -/
theorem eq_of_and_fullMask {w p : Word} (h : w &&& 0xFFFF#16 = p) : w = p := (BitVec.and_allOnes (x := w)).symm.trans h

/-- CLS completes by putting the cleared framebuffer in place (R133). -/
theorem exec_cls (s : State) : exec .cls s = .next (s.setFb fbClear) := rfl

/-- Settles O27: the mask leaves one word, and its meaning is one replaced framebuffer. -/
theorem clsClears : Obligations.ClsClears := by
  refine ⟨fun w hw => ?_, fun s => ?_⟩
  · obtain rfl := eq_of_and_fullMask hw
    rfl
  · exact ⟨s.setFb fbClear, exec_cls s, pixel_setFb_fbClear s, s.setFb_redraw fbClear, unchanged_setFb s fbClear⟩

end Sys2Proof
end

section
/-! SUPPORT. The conditional skips (43_skips.md): what replacing the program counter leaves unchanged, the decoding of a group that
its `op` field alone selects, and the skips on an immediate byte. -/

namespace Sys2Proof

open Sys2Proof.Machine

/-- A replaced program counter is a change of that piece alone. -/
theorem unchanged_setPc (s : State) (a : Word) : Unchanged [.pc] s (s.setPc a) := by
  have hfault : SameFault s (s.setPc a) := ⟨rfl, rfl, rfl, rfl, rfl⟩
  apply unchanged_of_fields <;> simp [hfault]

/-- Group 3 of R84 is one row: every word with that `op` is the skip on equal. -/
theorem decodeWord_of_fieldOp_eq_3 {w : Word} (h : fieldOp w = 0x3#4) :
    decodeWord w = .ok (.seImm (fieldX w) (fieldNN w)) := by
  simp only [decodeWord, h]

/-- Group 4 of R84 is one row: every word with that `op` is the skip on different. -/
theorem decodeWord_of_fieldOp_eq_4 {w : Word} (h : fieldOp w = 0x4#4) :
    decodeWord w = .ok (.sneImm (fieldX w) (fieldNN w)) := by
  simp only [decodeWord, h]

theorem exec_seImm (x : Nibble) (nn : Byte) (s : State) :
    exec (.seImm x nn) s = .next (s.skipIf (s.readReg x == nn)) := rfl

theorem exec_sneImm (x : Nibble) (nn : Byte) (s : State) :
    exec (.sneImm x nn) s = .next (s.skipIf (s.readReg x != nn)) := rfl

/-- An instruction that answers a conditional skip moves `pc` by the condition and changes nothing else (R170), whatever
proposition the condition decides. -/
theorem completes_of_exec_eq_skipIf {i : Instr} {s : State} {c : Bool} {p : Prop} [Decidable p]
    (hexec : exec i s = .next (s.skipIf c)) (hcond : c = true ↔ p) :
    Completes i s (fun t => t.pc = (if p then s.pc + 2 else s.pc) ∧ Unchanged [.pc] s t) := by
  rw [s.skipIf_eq c] at hexec
  have hpc : (if c then s.pc + 2 else s.pc) = (if p then s.pc + 2 else s.pc) := if_congr hcond rfl rfl
  exact ⟨_, hexec, (s.setPc_pc _).trans hpc, unchanged_setPc s _⟩

/-- Settles O35: the mask keeps `op`, which selects the instruction, and each meaning is a skip on a comparison of bytes, which
is one of their numbers. -/
theorem immediateSkips : Obligations.ImmediateSkips := by
  refine ⟨fun w hw => ?_, fun w hw => ?_, fun x nn s => ⟨?_, ?_⟩⟩
  · exact decodeWord_of_fieldOp_eq_3 (fieldOp_of_match w _ _ hw rfl)
  · exact decodeWord_of_fieldOp_eq_4 (fieldOp_of_match w _ _ hw rfl)
  · exact completes_of_exec_eq_skipIf (exec_seImm x nn s) (by rw [beq_iff_eq, BitVec.toNat_inj])
  · exact completes_of_exec_eq_skipIf (exec_sneImm x nn s) (by rw [bne_iff_ne, ne_eq, ne_eq, BitVec.toNat_inj])

end Sys2Proof
end

section
/-! SUPPORT. Register writes as frames (10_state.md R20, R22): what one written register, a result with its flag, and a shift
leave unchanged, and which registers they change. -/

namespace Sys2Proof

open Sys2Proof.Machine

/-- Replaced registers are a change of that piece alone. -/
theorem unchanged_setV (s : State) (v : Vector Byte 16) : Unchanged [.regs] s (s.setV v) := by
  have hfault : SameFault s (s.setV v) := ⟨rfl, rfl, rfl, rfl, rfl⟩
  apply unchanged_of_fields <;> simp [hfault]

theorem unchanged_writeReg (s : State) (x : Nibble) (b : Byte) : Unchanged [.regs] s (s.writeReg x b) :=
  unchanged_setV s (s.writeReg x b).V

theorem unchanged_writeThenFlag (s : State) (x : Nibble) (v f : Byte) : Unchanged [.regs] s (s.writeThenFlag x v f) :=
  unchanged_setV s (s.writeThenFlag x v f).V

theorem unchanged_writeShift (s : State) (x : Nibble) (g : Byte → Byte) (f : Byte) :
    Unchanged [.regs] s (s.writeShift x g f) := by
  rw [s.writeShift_eq x g f]
  exact unchanged_setV s _

theorem regsUnchanged_writeReg (s : State) (x : Nibble) (b : Byte) : RegsUnchanged [x] s (s.writeReg x b) := by
  intro r hr
  rw [State.readReg_writeReg, if_neg (List.ne_of_not_mem_cons hr)]

/-- The registers a flag-writing instruction leaves are those other than `V[x]` and `VF` (R24). -/
theorem ne_and_ne_vf_of_not_mem {r x : Nibble} (hr : r ∉ [x, 0xF]) : r ≠ x ∧ r ≠ 0xF#4 := by
  simpa using hr

theorem regsUnchanged_writeThenFlag (s : State) (x : Nibble) (v f : Byte) :
    RegsUnchanged [x, 0xF] s (s.writeThenFlag x v f) := by
  intro r hr
  obtain ⟨hx, hvf⟩ := ne_and_ne_vf_of_not_mem hr
  rw [State.readReg_writeThenFlag, if_neg hvf, if_neg hx]

theorem regsUnchanged_writeShift (s : State) (x : Nibble) (g : Byte → Byte) (f : Byte) :
    RegsUnchanged [x, 0xF] s (s.writeShift x g f) := by
  intro r hr
  obtain ⟨hx, hvf⟩ := ne_and_ne_vf_of_not_mem hr
  rw [State.readReg_writeShift]
  cases s.params.vfOrder with
  | flagLast => exact (if_neg hvf).trans (if_neg hx)
  | tableOrder => exact (if_neg hx).trans (if_neg hvf)

/-- Writing a register with the value it holds has no effect. -/
theorem writeReg_readReg_self (s : State) (x : Nibble) : s.writeReg x (s.readReg x) = s := by
  simp only [State.writeReg, State.readReg, Vector.set_getElem_self]

end Sys2Proof
end

section
/-! SUPPORT. The register and arithmetic family (44_alu.md): the decoding of groups 6, 7 and 8, and the loads, the copy and the
addition that write no flag. -/

namespace Sys2Proof

open Sys2Proof.Machine

section Decoding
variable {w p : Word}

/-- Group 6 of R84 is one row: every word with that `op` is the immediate load. -/
theorem decodeWord_of_fieldOp_eq_6 (h : fieldOp w = 0x6#4) : decodeWord w = .ok (.ldImm (fieldX w) (fieldNN w)) := by
  simp only [decodeWord, h]

/-- Group 7 of R84 is one row: every word with that `op` is the immediate addition. -/
theorem decodeWord_of_fieldOp_eq_7 (h : fieldOp w = 0x7#4) : decodeWord w = .ok (.addImm (fieldX w) (fieldNN w)) := by
  simp only [decodeWord, h]

theorem decodeGroup8_ldReg (h : fieldN w = 0x0#4) : decodeGroup8 w = .ok (.ldReg (fieldX w) (fieldY w)) := by
  simp only [decodeGroup8, h]

theorem decodeGroup8_addReg (h : fieldN w = 0x4#4) : decodeGroup8 w = .ok (.addReg (fieldX w) (fieldY w)) := by
  simp only [decodeGroup8, h]

theorem decodeGroup8_sub (h : fieldN w = 0x5#4) : decodeGroup8 w = .ok (.sub (fieldX w) (fieldY w)) := by
  simp only [decodeGroup8, h]

theorem decodeGroup8_shr (h : fieldN w = 0x6#4) : decodeGroup8 w = .ok (.shr (fieldX w) (fieldY w)) := by
  simp only [decodeGroup8, h]

theorem decodeGroup8_subn (h : fieldN w = 0x7#4) : decodeGroup8 w = .ok (.subn (fieldX w) (fieldY w)) := by
  simp only [decodeGroup8, h]

theorem decodeGroup8_shl (h : fieldN w = 0xE#4) : decodeGroup8 w = .ok (.shl (fieldX w) (fieldY w)) := by
  simp only [decodeGroup8, h]

/-- The mask of the rows of group 8 (R85) keeps `op` and `n`, so a word that matches one is decoded by the group, with the
pattern's `n`. -/
theorem decodeWord_of_match_group8 {i : Instr} (hw : w &&& 0xF00F#16 = p) (hp : fieldOp p = 0x8#4)
    (hrow : fieldN w = fieldN p → decodeGroup8 w = .ok i) : decodeWord w = .ok i := by
  have hop : fieldOp w = 0x8#4 := (fieldOp_of_match w _ p hw rfl).trans hp
  simp only [decodeWord, hop]
  exact hrow (fieldN_of_match w _ p hw rfl)

end Decoding

section Meanings
variable (x y : Nibble) (nn : Byte) (s : State)

theorem exec_ldImm : exec (.ldImm x nn) s = .next (s.writeReg x nn) := rfl

theorem exec_addImm : exec (.addImm x nn) s = .next (s.writeReg x (s.readReg x + nn)) := rfl

theorem exec_ldReg : exec (.ldReg x y) s = .next (s.writeReg x (s.readReg y)) := rfl

theorem exec_addReg : exec (.addReg x y) s =
    .next (s.writeThenFlag x (s.readReg x + s.readReg y) (carryFlag (s.readReg x) (s.readReg y))) := rfl

theorem exec_sub : exec (.sub x y) s =
    .next (s.writeThenFlag x (s.readReg x - s.readReg y) (noBorrowFlag (s.readReg x) (s.readReg y))) := rfl

theorem exec_subn : exec (.subn x y) s =
    .next (s.writeThenFlag x (s.readReg y - s.readReg x) (noBorrowFlag (s.readReg y) (s.readReg x))) := rfl

theorem exec_shr : exec (.shr x y) s = .next (s.writeShift x (fun b => b >>> 1) (lsbFlag (s.readReg x))) := rfl

theorem exec_shl : exec (.shl x y) s = .next (s.writeShift x (fun b => b <<< 1) (msbFlag (s.readReg x))) := rfl

end Meanings

/-- An instruction that answers one written register changes that register alone, whatever is to be said of the value. -/
theorem completes_of_exec_eq_writeReg {i : Instr} {s : State} {x : Nibble} {b : Byte} (P : Byte → Prop)
    (hexec : exec i s = .next (s.writeReg x b)) (hb : P b) :
    Completes i s (fun t => P (t.readReg x) ∧ RegsUnchanged [x] s t ∧ Unchanged [.regs] s t) := by
  have hread : P ((s.writeReg x b).readReg x) := by rwa [s.readReg_writeReg_self x b]
  exact ⟨_, hexec, hread, regsUnchanged_writeReg s x b, unchanged_writeReg s x b⟩

/-- Settles O37: the mask keeps `op`, which selects the instruction, and each meaning is one written register; a sum of bytes is
their sum mod 256. -/
theorem immediateLoadAndAdd : Obligations.ImmediateLoadAndAdd := by
  refine ⟨fun w hw => ?_, fun w hw => ?_, fun x nn s => ⟨?_, ?_⟩⟩
  · exact decodeWord_of_fieldOp_eq_6 (fieldOp_of_match w _ _ hw rfl)
  · exact decodeWord_of_fieldOp_eq_7 (fieldOp_of_match w _ _ hw rfl)
  · exact completes_of_exec_eq_writeReg (· = nn) (exec_ldImm x nn s) rfl
  · exact completes_of_exec_eq_writeReg (fun v => v.toNat = ((s.readReg x).toNat + nn.toNat) % 256)
      (exec_addImm x nn s) (BitVec.toNat_add _ _)

/-- Settles O38: the meaning is one written register, and with x = y it is written with the value it holds. -/
theorem registerCopy : Obligations.RegisterCopy := by
  refine ⟨fun _ hw => decodeWord_of_match_group8 hw rfl decodeGroup8_ldReg, fun x y s => ⟨?_, ?_⟩⟩
  · exact completes_of_exec_eq_writeReg (· = s.readReg y) (exec_ldReg x y s) rfl
  · rw [exec_ldReg, writeReg_readReg_self]

end Sys2Proof
end

section
/-! SUPPORT. Addition with carry and subtraction with borrow (44_alu.md R188, R189, R191): the result and then the flag, an order
in which both values of VF_ORDER agree (R180). -/

namespace Sys2Proof

open Sys2Proof.Machine

/-- Byte subtraction with the borrow added beforehand, as R189 and R191 write it. -/
theorem toNat_sub_eq_add_256_sub_mod (a b : Byte) : (a - b).toNat = (a.toNat + 256 - b.toNat) % 256 := by
  have hb : b.toNat < 256 := b.isLt
  rw [BitVec.toNat_sub]
  omega

/-- An instruction that answers a result and then a flag: the result stands in `V[x]` unless `x = 0xF`, the flag in `VF`
always, and nothing else changes. The number `n` is the result's, and `p` is what the flag decides. -/
theorem completes_of_exec_eq_writeThenFlag {i : Instr} {s : State} {x : Nibble} {v : Byte} {n : Nat} {p : Prop} [Decidable p]
    (hexec : exec i s = .next (s.writeThenFlag x v (flagByte (decide p)))) (hv : v.toNat = n) :
    Completes i s (fun t => (x ≠ 0xF#4 → (t.readReg x).toNat = n) ∧ t.readReg 0xF = (if p then 1 else 0) ∧
      RegsUnchanged [x, 0xF] s t ∧ Unchanged [.regs] s t) := by
  refine ⟨_, hexec, fun hx => ?_, ?_, regsUnchanged_writeThenFlag s x v _, unchanged_writeThenFlag s x v _⟩
  · rw [State.readReg_writeThenFlag, if_neg hx, if_pos rfl, hv]
  · rw [State.readReg_writeThenFlag]
    exact (if_pos rfl).trans (flagByte_decide p)

/-- Settles O40: the result is a sum of bytes, and the flag decides that the exact sum exceeds 255. -/
theorem addWithCarry : Obligations.AddWithCarry := by
  refine ⟨fun _ hw => decodeWord_of_match_group8 hw rfl decodeGroup8_addReg, fun x y s => ?_⟩
  exact completes_of_exec_eq_writeThenFlag (exec_addReg x y s) (BitVec.toNat_add _ _)

/-- Settles O41: each result is a difference of bytes, and the flag decides that its minuend is at least its subtrahend. -/
theorem subtractWithBorrow : Obligations.SubtractWithBorrow := by
  refine ⟨fun _ hw => decodeWord_of_match_group8 hw rfl decodeGroup8_sub,
    fun _ hw => decodeWord_of_match_group8 hw rfl decodeGroup8_subn, fun x y s => ⟨?_, ?_⟩⟩
  · exact completes_of_exec_eq_writeThenFlag (exec_sub x y s) (toNat_sub_eq_add_256_sub_mod _ _)
  · exact completes_of_exec_eq_writeThenFlag (exec_subn x y s) (toNat_sub_eq_add_256_sub_mod _ _)

end Sys2Proof
end

section
/-! SUPPORT. The shifts (44_alu.md R190, R192): `V[x]` and `VF` after a shift under both values of VF_ORDER (R180, decision
D10), and the bits shifted out as numbers. -/

namespace Sys2Proof

open Sys2Proof.Machine

section ShiftReads
variable {s : State} {x : Nibble} (g : Byte → Byte) (f : Byte)

/-- Off `VF` both orders put the shifted value in `V[x]`. -/
theorem readReg_writeShift_self (hx : x ≠ 0xF#4) : (s.writeShift x g f).readReg x = g (s.readReg x) := by
  rw [State.readReg_writeShift]
  cases s.params.vfOrder with
  | flagLast => exact (if_neg hx).trans (if_pos rfl)
  | tableOrder => exact (if_pos rfl).trans (congrArg g (if_neg hx))

/-- `VF` ends as the flag off `VF`, and under `FlagLast` for every register. -/
theorem readReg_writeShift_vf (h : x ≠ 0xF#4 ∨ s.params.vfOrder = .flagLast) : (s.writeShift x g f).readReg 0xF = f := by
  rw [State.readReg_writeShift]
  cases hord : s.params.vfOrder with
  | flagLast => exact if_pos rfl
  | tableOrder =>
    have hx : 0xF#4 ≠ x := (h.resolve_right (by simp [hord])).symm
    exact (if_neg hx).trans (if_pos rfl)

/-- With `x = 0xF`, `TableOrder` shifts the flag it has just written. -/
theorem readReg_writeShift_vf_tableOrder (hx : x = 0xF#4) (hord : s.params.vfOrder = .tableOrder) :
    (s.writeShift x g f).readReg 0xF = g f := by
  subst hx
  rw [State.readReg_writeShift, hord]
  exact (if_pos rfl).trans (congrArg g (if_pos rfl))

end ShiftReads

section BitsOut
variable (a : Byte)

theorem toNat_lsbFlag : (lsbFlag a).toNat = a.toNat % 2 := by
  rw [lsbFlag, BitVec.toNat_and]
  exact Nat.and_one_is_mod a.toNat

theorem toNat_ushiftRight_one : (a >>> 1).toNat = a.toNat / 2 := by
  rw [BitVec.toNat_ushiftRight, Nat.shiftRight_one]

/-- One bit shifted right once more is zero. -/
theorem lsbFlag_ushiftRight_one : lsbFlag a >>> 1 = 0 := by
  apply BitVec.eq_of_toNat_eq
  rw [toNat_ushiftRight_one, toNat_lsbFlag]
  exact Nat.div_eq_of_lt (Nat.mod_lt _ two_pos)

theorem toNat_shiftLeft_one : (a <<< 1).toNat = 2 * a.toNat % 256 := by
  rw [BitVec.toNat_shiftLeft, Nat.shiftLeft_eq, Nat.mul_comm]

/-- Bit 7 of a byte is set where the byte is at least 128. -/
theorem and_0x80_ne_zero_iff : a &&& 0x80 ≠ 0 ↔ 128 ≤ a.toNat := by
  have hmask : (0x80 : Byte) = BitVec.twoPow 8 7 := rfl
  have hmsb : a.getLsbD 7 = decide (128 ≤ a.toNat) := BitVec.msb_eq_decide a
  rw [hmask, BitVec.and_twoPow, hmsb]
  by_cases h : 128 ≤ a.toNat <;> simp [h]

theorem msbFlag_eq : msbFlag a = if 128 ≤ a.toNat then 1 else 0 := by
  simp only [msbFlag, and_0x80_ne_zero_iff, flagByte_decide]

/-- The flag of a left shift, itself shifted left: 2 f of R192. -/
theorem msbFlag_shiftLeft_one : msbFlag a <<< 1 = if 128 ≤ a.toNat then 2 else 0 := by
  rw [msbFlag_eq]
  by_cases h : 128 ≤ a.toNat
  · rw [if_pos h, if_pos h]
    rfl
  · rw [if_neg h, if_neg h]
    rfl

end BitsOut

/-- Settles O42: the flag is the low bit, the result half of the byte, and `TableOrder` halves the flag itself where x = 0xF. -/
theorem shiftRight : Obligations.ShiftRight := by
  refine ⟨fun _ hw => decodeWord_of_match_group8 hw rfl decodeGroup8_shr, fun x y s => ?_⟩
  refine ⟨_, exec_shr x y s, fun hx => ?_, fun h => ?_, fun hx hord => ?_, fun y' => exec_shr x y' s,
    regsUnchanged_writeShift s x _ _, unchanged_writeShift s x _ _⟩
  · rw [readReg_writeShift_self _ _ hx, toNat_ushiftRight_one]
  · rw [readReg_writeShift_vf _ _ h, toNat_lsbFlag]
  · rw [readReg_writeShift_vf_tableOrder _ _ hx hord, lsbFlag_ushiftRight_one]

/-- Settles O43: the flag is bit 7, the result twice the byte mod 256, and `TableOrder` doubles the flag itself where x = 0xF. -/
theorem shiftLeft : Obligations.ShiftLeft := by
  refine ⟨fun _ hw => decodeWord_of_match_group8 hw rfl decodeGroup8_shl, fun x y s => ?_⟩
  refine ⟨_, exec_shl x y s, fun hx => ?_, fun h => ?_, fun hx hord => ?_, fun y' => exec_shl x y' s,
    regsUnchanged_writeShift s x _ _, unchanged_writeShift s x _ _⟩
  · rw [readReg_writeShift_self _ _ hx, toNat_shiftLeft_one]
  · rw [readReg_writeShift_vf _ _ h, msbFlag_eq]
  · rw [readReg_writeShift_vf_tableOrder _ _ hx hord, msbFlag_shiftLeft_one]

end Sys2Proof
end

section
/-! SUPPORT. The index register (45_index_memory.md): what replacing it leaves unchanged, and the load of an address. -/

namespace Sys2Proof

open Sys2Proof.Machine

/-- A replaced index register is a change of that piece alone. -/
theorem unchanged_setI (s : State) (a : Word) : Unchanged [.index] s (s.setI a) := by
  have hfault : SameFault s (s.setI a) := ⟨rfl, rfl, rfl, rfl, rfl⟩
  apply unchanged_of_fields <;> simp [hfault]

/-- Group A of R84 is one row: every word with that `op` is the load of the index register. -/
theorem decodeWord_of_fieldOp_eq_A {w : Word} (h : fieldOp w = 0xA#4) : decodeWord w = .ok (.ldI (fieldNNN w)) := by
  simp only [decodeWord, h]

theorem exec_ldI (nnn : Addr12) (s : State) : exec (.ldI nnn) s = .next (s.setI (zextAddr nnn)) := rfl

/-- An address field widened to a word stays within memory (R210). -/
theorem toNat_zextAddr_le (nnn : Addr12) : (zextAddr nnn).toNat ≤ 0xFFF := by
  rw [zextAddr_toNat]
  exact Nat.le_of_lt_succ nnn.isLt

/-- Settles O45: the mask keeps `op`, which selects the instruction, and its meaning is one replaced index register, whose value
is the address widened. -/
theorem loadIndex : Obligations.LoadIndex := by
  refine ⟨fun w hw => ?_, fun nnn s => ?_⟩
  · exact decodeWord_of_fieldOp_eq_A (fieldOp_of_match w _ _ hw rfl)
  · exact ⟨_, exec_ldI nnn s, zextAddr_toNat nnn, toNat_zextAddr_le nnn, unchanged_setI s _⟩

end Sys2Proof
end

section
/-! SUPPORT. The timers (10_state.md R29, 46_keypad_timers.md R240, R242): what replacing one leaves unchanged, any number of
ticks as one update of the two timers, and the sound as a number of ticks left. -/

namespace Sys2Proof

open Sys2Proof.Machine

/-- A replaced delay timer is a change of that piece alone. -/
theorem unchanged_setDT (s : State) (b : Byte) : Unchanged [.delay] s (s.setDT b) := by
  have hfault : SameFault s (s.setDT b) := ⟨rfl, rfl, rfl, rfl, rfl⟩
  apply unchanged_of_fields <;> simp [hfault]

/-- A replaced sound timer is a change of that piece alone. -/
theorem unchanged_setST (s : State) (b : Byte) : Unchanged [.sound] s (s.setST b) := by
  have hfault : SameFault s (s.setST b) := ⟨rfl, rfl, rfl, rfl, rfl⟩
  apply unchanged_of_fields <;> simp [hfault]

/-- Down by one, stopping at zero, is the subtraction of natural numbers. -/
theorem toNat_tickDown (b : Byte) : (tickDown b).toNat = b.toNat - 1 := by
  by_cases hb : b = 0
  · subst hb
    rfl
  · have hpos : b.toNat ≠ 0 := fun h => hb (BitVec.eq_of_toNat_eq h)
    have hle : (1 : Byte) ≤ b := Nat.one_le_iff_ne_zero.mpr hpos
    rw [tickDown, if_neg hb, BitVec.toNat_sub_of_le hle]
    rfl

theorem toNat_tickDown_iterate (b : Byte) (k : Nat) : (tickDown^[k] b).toNat = b.toNat - k := by
  induction k with
  | zero => rfl
  | succ k ih => rw [Function.iterate_succ_apply', toNat_tickDown, ih, Nat.sub_sub]

theorem tickTimers_of_faulted {s : State} (h : s.run = .faulted) : s.tickTimers = s := by
  simp only [State.tickTimers, h]

theorem tickTimers_of_running {s : State} (h : s.run = .running) :
    s.tickTimers = (s.setDT (tickDown s.DT)).setST (tickDown s.ST) := by
  simp only [State.tickTimers, h, State.setDT, State.setST]

/-- On a running engine `k` ticks are `k` ticks of each timer alone: a tick keeps the engine running, so the next one counts. -/
theorem tickTimers_iterate_of_running {s : State} (h : s.run = .running) (k : Nat) :
    State.tickTimers^[k] s = (s.setDT (tickDown^[k] s.DT)).setST (tickDown^[k] s.ST) := by
  induction k with
  | zero => rfl
  | succ k ih =>
    have hrun : ((s.setDT (tickDown^[k] s.DT)).setST (tickDown^[k] s.ST)).run = .running := h
    simp only [Function.iterate_succ_apply', ih, tickTimers_of_running hrun]
    rfl

theorem toNat_DT_tickTimers_iterate {s : State} (h : s.run = .running) (k : Nat) :
    (State.tickTimers^[k] s).DT.toNat = s.DT.toNat - k := by
  rw [tickTimers_iterate_of_running h]
  exact toNat_tickDown_iterate s.DT k

theorem toNat_ST_tickTimers_iterate {s : State} (h : s.run = .running) (k : Nat) :
    (State.tickTimers^[k] s).ST.toNat = s.ST.toNat - k := by
  rw [tickTimers_iterate_of_running h]
  exact toNat_tickDown_iterate s.ST k

/-- A delay timer at zero stays there, on a faulted engine too. -/
theorem DT_tickTimers_eq_zero (s : State) (h : s.DT = 0) : s.tickTimers.DT = 0 := by
  cases hrun : s.run with
  | faulted => rw [tickTimers_of_faulted hrun, h]
  | running =>
    rw [tickTimers_of_running hrun, State.setST_DT, State.setDT_DT, h]
    rfl

theorem DT_tickTimers_iterate_eq_zero {s : State} (h : s.DT = 0) (k : Nat) : (State.tickTimers^[k] s).DT = 0 :=
  Function.Iterate.rec (fun t : State => t.DT = 0) h DT_tickTimers_eq_zero k

/-- Sound plays while a tick is left to count (R242). -/
theorem soundShouldPlay_eq_decide (s : State) : s.soundShouldPlay = decide (0 < s.ST.toNat) := by
  rw [State.soundShouldPlay, Bool.eq_iff_iff, bne_iff_ne, decide_eq_true_iff, Nat.pos_iff_ne_zero, ne_eq, ne_eq,
    ← BitVec.toNat_inj]
  rfl

theorem soundShouldPlay_tickTimers_iterate {s : State} (h : s.run = .running) (k : Nat) :
    (State.tickTimers^[k] s).soundShouldPlay = decide (k < s.ST.toNat) := by
  rw [soundShouldPlay_eq_decide, toNat_ST_tickTimers_iterate h, decide_eq_decide]
  exact Nat.sub_pos_iff_lt

end Sys2Proof
end

section
/-! SUPPORT. The timers' instructions (46_keypad_timers.md R232, R234, R235): the decoding of their rows of group F, and their
meanings. -/

namespace Sys2Proof

open Sys2Proof.Machine

section Decoding
variable {w p : Word}

theorem decodeGroupF_ldVxDt (h : fieldNN w = 0x07#8) : decodeGroupF w = .ok (.ldVxDt (fieldX w)) := by
  simp only [decodeGroupF, h]

theorem decodeGroupF_ldDtVx (h : fieldNN w = 0x15#8) : decodeGroupF w = .ok (.ldDtVx (fieldX w)) := by
  simp only [decodeGroupF, h]

theorem decodeGroupF_ldStVx (h : fieldNN w = 0x18#8) : decodeGroupF w = .ok (.ldStVx (fieldX w)) := by
  simp only [decodeGroupF, h]

/-- The mask of the rows of group F (R85) keeps `op` and `nn`, so a word that matches one is decoded by the group, with the
pattern's `nn`. -/
theorem decodeWord_of_match_groupF {i : Instr} (hw : w &&& 0xF0FF#16 = p) (hp : fieldOp p = 0xF#4)
    (hrow : fieldNN w = fieldNN p → decodeGroupF w = .ok i) : decodeWord w = .ok i := by
  have hop : fieldOp w = 0xF#4 := (fieldOp_of_match w _ p hw rfl).trans hp
  simp only [decodeWord, hop]
  exact hrow (fieldNN_of_match w _ p hw rfl)

end Decoding

section Meanings
variable (x : Nibble) (s : State)

theorem exec_ldVxDt : exec (.ldVxDt x) s = .next (s.writeReg x s.DT) := rfl

theorem exec_ldDtVx : exec (.ldDtVx x) s = .next (s.setDT (s.readReg x)) := rfl

theorem exec_ldStVx : exec (.ldStVx x) s = .next (s.setST (s.readReg x)) := rfl

end Meanings

/-- Settles O53: the reads of the delay timer are one written register, before or after the ticks, and a loaded timer is one
replaced piece, which ticks leave at zero. -/
theorem delayTimerAccess : Obligations.DelayTimerAccess := by
  refine ⟨fun _ hw => decodeWord_of_match_groupF hw rfl decodeGroupF_ldVxDt,
    fun _ hw => decodeWord_of_match_groupF hw rfl decodeGroupF_ldDtVx, fun x s => ⟨?_, fun hrun k => ?_, ?_⟩⟩
  · exact completes_of_exec_eq_writeReg (· = s.DT) (exec_ldVxDt x s) rfl
  · have hread := State.readReg_writeReg_self (State.tickTimers^[k] s) x (State.tickTimers^[k] s).DT
    exact ⟨_, exec_ldVxDt x _, (congrArg BitVec.toNat hread).trans (toNat_DT_tickTimers_iterate hrun k)⟩
  · exact ⟨_, exec_ldDtVx x s, s.setDT_DT _, unchanged_setDT s _, fun hx k => DT_tickTimers_iterate_eq_zero hx k⟩

/-- Settles O54: the load is one replaced sound timer and keeps the engine running, so its ticks count from `V[x]`. -/
theorem soundTimerPlays : Obligations.SoundTimerPlays := by
  refine ⟨fun _ hw => decodeWord_of_match_groupF hw rfl decodeGroupF_ldStVx, fun x s => ?_⟩
  exact ⟨_, exec_ldStVx x s, s.setST_ST _, unchanged_setST s _,
    fun hrun k => soundShouldPlay_tickTimers_iterate (s := s.setST (s.readReg x)) hrun k⟩

end Sys2Proof
end

section
/-! SUPPORT. Decoding row by row (30_encoding.md R84, R85): the equation of the decoder for every row not met before, and the
opcodes put together from fields of which the row fixes some. -/

namespace Sys2Proof

section Rows
variable {w : Word}

theorem decodeWord_sys (h : fieldOp w = 0x0#4) (hcls : w ≠ 0x00E0#16) (hret : w ≠ 0x00EE#16) :
    decodeWord w = .ok (.sys (fieldNNN w)) := by
  simp only [decodeWord, h, if_neg hcls, if_neg hret]

theorem decodeWord_jp (h : fieldOp w = 0x1#4) : decodeWord w = .ok (.jp (fieldNNN w)) := by simp only [decodeWord, h]

theorem decodeWord_call (h : fieldOp w = 0x2#4) : decodeWord w = .ok (.call (fieldNNN w)) := by simp only [decodeWord, h]

theorem decodeWord_seReg (h : fieldOp w = 0x5#4) (hn : fieldN w = 0#4) :
    decodeWord w = .ok (.seReg (fieldX w) (fieldY w)) := by simp only [decodeWord, h, if_pos hn]

theorem decodeWord_sneReg (h : fieldOp w = 0x9#4) (hn : fieldN w = 0#4) :
    decodeWord w = .ok (.sneReg (fieldX w) (fieldY w)) := by simp only [decodeWord, h, if_pos hn]

theorem decodeWord_jpV0 (h : fieldOp w = 0xB#4) : decodeWord w = .ok (.jpV0 (fieldNNN w)) := by simp only [decodeWord, h]

theorem decodeWord_rnd (h : fieldOp w = 0xC#4) : decodeWord w = .ok (.rnd (fieldX w) (fieldNN w)) := by
  simp only [decodeWord, h]

theorem decodeWord_drw (h : fieldOp w = 0xD#4) : decodeWord w = .ok (.drw (fieldX w) (fieldY w) (fieldN w)) := by
  simp only [decodeWord, h]

theorem decodeWord_group8 (h : fieldOp w = 0x8#4) : decodeWord w = decodeGroup8 w := by simp only [decodeWord, h]

theorem decodeWord_groupE (h : fieldOp w = 0xE#4) : decodeWord w = decodeGroupE w := by simp only [decodeWord, h]

theorem decodeWord_groupF (h : fieldOp w = 0xF#4) : decodeWord w = decodeGroupF w := by
  simp only [decodeWord, h]
  rfl

theorem decodeGroup8_orReg (h : fieldN w = 0x1#4) : decodeGroup8 w = .ok (.orReg (fieldX w) (fieldY w)) := by
  simp only [decodeGroup8, h]

theorem decodeGroup8_andReg (h : fieldN w = 0x2#4) : decodeGroup8 w = .ok (.andReg (fieldX w) (fieldY w)) := by
  simp only [decodeGroup8, h]

theorem decodeGroup8_xorReg (h : fieldN w = 0x3#4) : decodeGroup8 w = .ok (.xorReg (fieldX w) (fieldY w)) := by
  simp only [decodeGroup8, h]

theorem decodeGroupE_skp (h : fieldNN w = 0x9E#8) : decodeGroupE w = .ok (.skp (fieldX w)) := by
  simp only [decodeGroupE, h]

theorem decodeGroupE_sknp (h : fieldNN w = 0xA1#8) : decodeGroupE w = .ok (.sknp (fieldX w)) := by
  simp only [decodeGroupE, h]

theorem decodeGroupF_ldVxK (h : fieldNN w = 0x0A#8) : decodeGroupF w = .ok (.ldVxK (fieldX w)) := by
  simp only [decodeGroupF, h]

theorem decodeGroupF_addI (h : fieldNN w = 0x1E#8) : decodeGroupF w = .ok (.addI (fieldX w)) := by
  simp only [decodeGroupF, h]

theorem decodeGroupF_ldF (h : fieldNN w = 0x29#8) : decodeGroupF w = .ok (.ldF (fieldX w)) := by
  simp only [decodeGroupF, h]

theorem decodeGroupF_ldB (h : fieldNN w = 0x33#8) : decodeGroupF w = .ok (.ldB (fieldX w)) := by
  simp only [decodeGroupF, h]

theorem decodeGroupF_ldMemVx (h : fieldNN w = 0x55#8) : decodeGroupF w = .ok (.ldMemVx (fieldX w)) := by
  simp only [decodeGroupF, h]

theorem decodeGroupF_ldVxMem (h : fieldNN w = 0x65#8) : decodeGroupF w = .ok (.ldVxMem (fieldX w)) := by
  simp only [decodeGroupF, h]

end Rows

section OpcodesFromFields
variable {w : Word} {op n : Nibble} {nn : Byte}

theorem encodeA_of_fields (hop : fieldOp w = op) : encodeA op (fieldNNN w) = w := hop ▸ encodeA_fields w

theorem encodeXNN_of_fields (hop : fieldOp w = op) (hnn : fieldNN w = nn) : encodeXNN op (fieldX w) nn = w :=
  hop ▸ hnn ▸ encodeXNN_fields w

theorem encodeXYN_of_fields (hop : fieldOp w = op) (hn : fieldN w = n) : encodeXYN op (fieldX w) (fieldY w) n = w :=
  hop ▸ hn ▸ encodeXYN_fields w

end OpcodesFromFields

end Sys2Proof
end

section
/-! SUPPORT. Decoding and encoding are inverse to each other (30_encoding.md R84, R85). -/

namespace Sys2Proof

/-- The opcode of a well-formed `SYS` is neither of the two words of group 0 with a meaning of their own. -/
theorem encode_sys_ne {nnn : Addr12} (h : (Instr.sys nnn).wellFormed = true) :
    encodeA 0x0#4 nnn ≠ 0x00E0#16 ∧ encodeA 0x0#4 nnn ≠ 0x00EE#16 := by
  simp only [Instr.wellFormed, Bool.and_eq_true, bne_iff_ne] at h
  obtain ⟨hcls, hret⟩ := h
  refine ⟨fun he => hcls ?_, fun he => hret ?_⟩
  · rw [← fieldNNN_encodeA 0x0#4 nnn, he]; rfl
  · rw [← fieldNNN_encodeA 0x0#4 nnn, he]; rfl

/-- Each row's equation of the decoder, on the fields the encoding put into the word. -/
theorem decodeWord_encode {i : Instr} (hwf : i.wellFormed = true) : decodeWord (encode i) = .ok i := by
  cases i with
  | cls => rfl
  | ret => rfl
  | sys nnn =>
    obtain ⟨hcls, hret⟩ := encode_sys_ne hwf
    simp [encode, decodeWord_sys, hcls, hret]
  | jp nnn => simp [encode, decodeWord_jp]
  | call nnn => simp [encode, decodeWord_call]
  | seImm x nn => simp [encode, decodeWord_of_fieldOp_eq_3]
  | sneImm x nn => simp [encode, decodeWord_of_fieldOp_eq_4]
  | seReg x y => simp [encode, decodeWord_seReg]
  | ldImm x nn => simp [encode, decodeWord_of_fieldOp_eq_6]
  | addImm x nn => simp [encode, decodeWord_of_fieldOp_eq_7]
  | ldReg x y => simp [encode, decodeWord_group8, decodeGroup8_ldReg]
  | orReg x y => simp [encode, decodeWord_group8, decodeGroup8_orReg]
  | andReg x y => simp [encode, decodeWord_group8, decodeGroup8_andReg]
  | xorReg x y => simp [encode, decodeWord_group8, decodeGroup8_xorReg]
  | addReg x y => simp [encode, decodeWord_group8, decodeGroup8_addReg]
  | sub x y => simp [encode, decodeWord_group8, decodeGroup8_sub]
  | shr x y => simp [encode, decodeWord_group8, decodeGroup8_shr]
  | subn x y => simp [encode, decodeWord_group8, decodeGroup8_subn]
  | shl x y => simp [encode, decodeWord_group8, decodeGroup8_shl]
  | sneReg x y => simp [encode, decodeWord_sneReg]
  | ldI nnn => simp [encode, decodeWord_of_fieldOp_eq_A]
  | jpV0 nnn => simp [encode, decodeWord_jpV0]
  | rnd x nn => simp [encode, decodeWord_rnd]
  | drw x y n => simp [encode, decodeWord_drw]
  | skp x => simp [encode, decodeWord_groupE, decodeGroupE_skp]
  | sknp x => simp [encode, decodeWord_groupE, decodeGroupE_sknp]
  | ldVxDt x => simp [encode, decodeWord_groupF, decodeGroupF_ldVxDt]
  | ldVxK x => simp [encode, decodeWord_groupF, decodeGroupF_ldVxK]
  | ldDtVx x => simp [encode, decodeWord_groupF, decodeGroupF_ldDtVx]
  | ldStVx x => simp [encode, decodeWord_groupF, decodeGroupF_ldStVx]
  | addI x => simp [encode, decodeWord_groupF, decodeGroupF_addI]
  | ldF x => simp [encode, decodeWord_groupF, decodeGroupF_ldF]
  | ldB x => simp [encode, decodeWord_groupF, decodeGroupF_ldB]
  | ldMemVx x => simp [encode, decodeWord_groupF, decodeGroupF_ldMemVx]
  | ldVxMem x => simp [encode, decodeWord_groupF, decodeGroupF_ldVxMem]

/-- Settles O2: a word is decoded by its row, and its two bytes are the word again. -/
theorem decodeOfEncode : Obligations.DecodeOfEncode := by
  intro i hwf
  refine ⟨decodeWord_encode hwf, fun rest => ?_⟩
  simp [encodeBytes, decodeBytes, decodeWord_encode hwf, Except.map]

/-- A word whose row answers an instruction that encodes to it decodes to no other. -/
theorem encode_of_row {w : Word} {i j : Instr} (h : decodeWord w = .ok i) (hrow : decodeWord w = .ok j)
    (hj : encode j = w) (hwf : j.wellFormed = true) : encode i = w ∧ i.wellFormed = true := by
  rw [hrow] at h
  cases h
  exact ⟨hj, hwf⟩

/-- Group 0 answers one of its three rows, and `SYS` only off the other two words. -/
theorem encode_of_group0 {w : Word} {i : Instr} (hop : fieldOp w = 0x0#4) (h : decodeWord w = .ok i) :
    encode i = w ∧ i.wellFormed = true := by
  by_cases hcls : w = 0x00E0#16
  · exact encode_of_row (j := .cls) h (hcls ▸ rfl) hcls.symm rfl
  by_cases hret : w = 0x00EE#16
  · exact encode_of_row (j := .ret) h (hret ▸ rfl) hret.symm rfl
  refine encode_of_row h (decodeWord_sys hop hcls hret) (encodeA_of_fields hop) ?_
  have hword (nnn : Addr12) (hf : fieldNNN w = nnn) : w = encodeA 0x0#4 nnn := hf ▸ (encodeA_of_fields hop).symm
  simp only [Instr.wellFormed, Bool.and_eq_true, bne_iff_ne]
  exact ⟨fun hf => hcls (hword _ hf), fun hf => hret (hword _ hf)⟩

/-- Group 8 answers one of its nine rows, which `n` chooses. -/
theorem encode_of_decodeGroup8 {w : Word} {i : Instr} (hop : fieldOp w = 0x8#4) (h : decodeGroup8 w = .ok i) :
    encode i = w ∧ i.wellFormed = true := by
  unfold decodeGroup8 at h
  split at h
  all_goals cases h
  all_goals exact ⟨encodeXYN_of_fields hop ‹_›, rfl⟩

/-- Group E answers one of its two rows, which `nn` chooses. -/
theorem encode_of_decodeGroupE {w : Word} {i : Instr} (hop : fieldOp w = 0xE#4) (h : decodeGroupE w = .ok i) :
    encode i = w ∧ i.wellFormed = true := by
  unfold decodeGroupE at h
  split at h
  all_goals cases h
  all_goals exact ⟨encodeXNN_of_fields hop ‹_›, rfl⟩

/-- Group F answers one of its nine rows, which `nn` chooses. -/
theorem encode_of_decodeGroupF {w : Word} {i : Instr} (hop : fieldOp w = 0xF#4) (h : decodeGroupF w = .ok i) :
    encode i = w ∧ i.wellFormed = true := by
  unfold decodeGroupF at h
  split at h
  all_goals cases h
  all_goals exact ⟨encodeXNN_of_fields hop ‹_›, rfl⟩

/-- The sixteen values of a field of four bits, for a split by `op` or by `n` (R84). -/
theorem nibble_cases : ∀ n : Nibble, n = 0x0#4 ∨ n = 0x1#4 ∨ n = 0x2#4 ∨ n = 0x3#4 ∨ n = 0x4#4 ∨ n = 0x5#4 ∨ n = 0x6#4 ∨
    n = 0x7#4 ∨ n = 0x8#4 ∨ n = 0x9#4 ∨ n = 0xA#4 ∨ n = 0xB#4 ∨ n = 0xC#4 ∨ n = 0xD#4 ∨ n = 0xE#4 ∨ n = 0xF#4 := by
  decide

/-- The two groups with one row, `n = 0`, answer that row or nothing. -/
theorem fieldN_eq_zero_of_decodeWord {w : Word} {i : Instr} (hop : fieldOp w = 0x5#4 ∨ fieldOp w = 0x9#4)
    (h : decodeWord w = .ok i) : fieldN w = 0#4 := by
  by_contra hn
  rcases hop with hop | hop <;> simp [decodeWord, hop, hn] at h

/-- Settles O3: `op` chooses the group, and each of its rows gives the word back from the fields it kept. -/
theorem encodeOfDecode : Obligations.EncodeOfDecode := by
  intro w i h
  rcases nibble_cases (fieldOp w) with
    hop | hop | hop | hop | hop | hop | hop | hop | hop | hop | hop | hop | hop | hop | hop | hop
  · exact encode_of_group0 hop h
  · exact encode_of_row h (decodeWord_jp hop) (encodeA_of_fields hop) rfl
  · exact encode_of_row h (decodeWord_call hop) (encodeA_of_fields hop) rfl
  · exact encode_of_row h (decodeWord_of_fieldOp_eq_3 hop) (encodeXNN_of_fields hop rfl) rfl
  · exact encode_of_row h (decodeWord_of_fieldOp_eq_4 hop) (encodeXNN_of_fields hop rfl) rfl
  · have hn := fieldN_eq_zero_of_decodeWord (.inl hop) h
    exact encode_of_row h (decodeWord_seReg hop hn) (encodeXYN_of_fields hop hn) rfl
  · exact encode_of_row h (decodeWord_of_fieldOp_eq_6 hop) (encodeXNN_of_fields hop rfl) rfl
  · exact encode_of_row h (decodeWord_of_fieldOp_eq_7 hop) (encodeXNN_of_fields hop rfl) rfl
  · exact encode_of_decodeGroup8 hop (decodeWord_group8 hop ▸ h)
  · have hn := fieldN_eq_zero_of_decodeWord (.inr hop) h
    exact encode_of_row h (decodeWord_sneReg hop hn) (encodeXYN_of_fields hop hn) rfl
  · exact encode_of_row h (decodeWord_of_fieldOp_eq_A hop) (encodeA_of_fields hop) rfl
  · exact encode_of_row h (decodeWord_jpV0 hop) (encodeA_of_fields hop) rfl
  · exact encode_of_row h (decodeWord_rnd hop) (encodeXNN_of_fields hop rfl) rfl
  · exact encode_of_row h (decodeWord_drw hop) (encodeXYN_of_fields hop rfl) rfl
  · exact encode_of_decodeGroupE hop (decodeWord_groupE hop ▸ h)
  · exact encode_of_decodeGroupF hop (decodeWord_groupF hop ▸ h)

/-- Settles O6: each word is evaluated. -/
theorem sampleWordsDecode : Obligations.SampleWordsDecode := by
  unfold Obligations.SampleWordsDecode
  decide

end Sys2Proof
end

section
/-! SUPPORT. The illegal words (30_encoding.md R86): group by group, and as the words no row of R85 matches. -/

namespace Sys2Proof

theorem decodeGroup8_illegal_iff (w : Word) : decodeGroup8 w = .error (.illegal w) ↔
    fieldN w ∈ [0x8#4, 0x9#4, 0xA#4, 0xB#4, 0xC#4, 0xD#4, 0xF#4] := by
  rcases nibble_cases (fieldN w) with hn | hn | hn | hn | hn | hn | hn | hn | hn | hn | hn | hn | hn | hn | hn | hn
  all_goals simp [decodeGroup8, hn]

theorem decodeGroupE_illegal_iff (w : Word) : decodeGroupE w = .error (.illegal w) ↔ fieldNN w ∉ [0x9E#8, 0xA1#8] := by
  unfold decodeGroupE
  split <;> simp_all

theorem decodeGroupF_illegal_iff (w : Word) : decodeGroupF w = .error (.illegal w) ↔
    fieldNN w ∉ [0x07#8, 0x0A#8, 0x15#8, 0x18#8, 0x1E#8, 0x29#8, 0x33#8, 0x55#8, 0x65#8] := by
  unfold decodeGroupF
  split <;> simp_all

/-- Every word of group 0 is an instruction. -/
theorem decodeWord_group0_ok {w : Word} (hop : fieldOp w = 0x0#4) : ∃ i, decodeWord w = .ok i := by
  by_cases hcls : w = 0x00E0#16
  · exact ⟨.cls, hcls ▸ rfl⟩
  by_cases hret : w = 0x00EE#16
  · exact ⟨.ret, hret ▸ rfl⟩
  exact ⟨_, decodeWord_sys hop hcls hret⟩

/-- Settles O5: `op` chooses the group; those with one row for all their words have no illegal one. -/
theorem illegalWordsByGroup : Obligations.IllegalWordsByGroup := by
  intro w
  rcases nibble_cases (fieldOp w) with
    hop | hop | hop | hop | hop | hop | hop | hop | hop | hop | hop | hop | hop | hop | hop | hop
  · obtain ⟨i, hi⟩ := decodeWord_group0_ok hop
    simp [hop, hi]
  · simp [hop, decodeWord_jp]
  · simp [hop, decodeWord_call]
  · simp [hop, decodeWord_of_fieldOp_eq_3]
  · simp [hop, decodeWord_of_fieldOp_eq_4]
  · by_cases hn : fieldN w = 0#4 <;> simp [decodeWord, hop, hn]
  · simp [hop, decodeWord_of_fieldOp_eq_6]
  · simp [hop, decodeWord_of_fieldOp_eq_7]
  · simp [hop, decodeWord_group8, decodeGroup8_illegal_iff]
  · by_cases hn : fieldN w = 0#4 <;> simp [decodeWord, hop, hn]
  · simp [hop, decodeWord_of_fieldOp_eq_A]
  · simp [hop, decodeWord_jpV0]
  · simp [hop, decodeWord_rnd]
  · simp [hop, decodeWord_drw]
  · simp [hop, decodeWord_groupE, decodeGroupE_illegal_iff]
  · simp [hop, decodeWord_groupF, decodeGroupF_illegal_iff]

/-- The decoder's one answer that is no instruction, in every group. -/
theorem decodeWord_error_eq {w : Word} {e : DecodeError} (h : decodeWord w = .error e) : e = .illegal w := by
  unfold decodeWord decodeGroup8 decodeGroupE decodeGroupF at h
  repeat' split at h
  all_goals cases h
  all_goals rfl

/-- The mask of the rows of group E (R85) keeps `op` and `nn`. -/
theorem decodeWord_of_match_groupE {w p : Word} {i : Instr} (hw : w &&& 0xF0FF#16 = p) (hp : fieldOp p = 0xE#4)
    (hrow : fieldNN w = fieldNN p → decodeGroupE w = .ok i) : decodeWord w = .ok i :=
  (decodeWord_groupE ((fieldOp_of_match w _ p hw rfl).trans hp)).trans (hrow (fieldNN_of_match w _ p hw rfl))

/-- A word that matches a row under the row's mask has the fields that choose the row, so it is no illegal word. -/
theorem decodeWord_ok_of_match {w : Word} {i : Instr} (hw : w &&& (opcodeRow i).mask = (opcodeRow i).pat) :
    ∃ j, decodeWord w = .ok j := by
  cases i
  all_goals dsimp only [opcodeRow] at hw
  case cls => exact ⟨.cls, eq_of_and_fullMask hw ▸ rfl⟩
  case ret => exact ⟨.ret, eq_of_and_fullMask hw ▸ rfl⟩
  case sys => exact decodeWord_group0_ok (fieldOp_of_match w _ _ hw rfl)
  case jp => exact ⟨_, decodeWord_jp (fieldOp_of_match w _ _ hw rfl)⟩
  case call => exact ⟨_, decodeWord_call (fieldOp_of_match w _ _ hw rfl)⟩
  case seImm => exact ⟨_, decodeWord_of_fieldOp_eq_3 (fieldOp_of_match w _ _ hw rfl)⟩
  case sneImm => exact ⟨_, decodeWord_of_fieldOp_eq_4 (fieldOp_of_match w _ _ hw rfl)⟩
  case seReg => exact ⟨_, decodeWord_seReg (fieldOp_of_match w _ _ hw rfl) (fieldN_of_match w _ _ hw rfl)⟩
  case ldImm => exact ⟨_, decodeWord_of_fieldOp_eq_6 (fieldOp_of_match w _ _ hw rfl)⟩
  case addImm => exact ⟨_, decodeWord_of_fieldOp_eq_7 (fieldOp_of_match w _ _ hw rfl)⟩
  case ldReg => exact ⟨_, decodeWord_of_match_group8 hw rfl decodeGroup8_ldReg⟩
  case orReg => exact ⟨_, decodeWord_of_match_group8 hw rfl decodeGroup8_orReg⟩
  case andReg => exact ⟨_, decodeWord_of_match_group8 hw rfl decodeGroup8_andReg⟩
  case xorReg => exact ⟨_, decodeWord_of_match_group8 hw rfl decodeGroup8_xorReg⟩
  case addReg => exact ⟨_, decodeWord_of_match_group8 hw rfl decodeGroup8_addReg⟩
  case sub => exact ⟨_, decodeWord_of_match_group8 hw rfl decodeGroup8_sub⟩
  case shr => exact ⟨_, decodeWord_of_match_group8 hw rfl decodeGroup8_shr⟩
  case subn => exact ⟨_, decodeWord_of_match_group8 hw rfl decodeGroup8_subn⟩
  case shl => exact ⟨_, decodeWord_of_match_group8 hw rfl decodeGroup8_shl⟩
  case sneReg => exact ⟨_, decodeWord_sneReg (fieldOp_of_match w _ _ hw rfl) (fieldN_of_match w _ _ hw rfl)⟩
  case ldI => exact ⟨_, decodeWord_of_fieldOp_eq_A (fieldOp_of_match w _ _ hw rfl)⟩
  case jpV0 => exact ⟨_, decodeWord_jpV0 (fieldOp_of_match w _ _ hw rfl)⟩
  case rnd => exact ⟨_, decodeWord_rnd (fieldOp_of_match w _ _ hw rfl)⟩
  case drw => exact ⟨_, decodeWord_drw (fieldOp_of_match w _ _ hw rfl)⟩
  case skp => exact ⟨_, decodeWord_of_match_groupE hw rfl decodeGroupE_skp⟩
  case sknp => exact ⟨_, decodeWord_of_match_groupE hw rfl decodeGroupE_sknp⟩
  case ldVxDt => exact ⟨_, decodeWord_of_match_groupF hw rfl decodeGroupF_ldVxDt⟩
  case ldVxK => exact ⟨_, decodeWord_of_match_groupF hw rfl decodeGroupF_ldVxK⟩
  case ldDtVx => exact ⟨_, decodeWord_of_match_groupF hw rfl decodeGroupF_ldDtVx⟩
  case ldStVx => exact ⟨_, decodeWord_of_match_groupF hw rfl decodeGroupF_ldStVx⟩
  case addI => exact ⟨_, decodeWord_of_match_groupF hw rfl decodeGroupF_addI⟩
  case ldF => exact ⟨_, decodeWord_of_match_groupF hw rfl decodeGroupF_ldF⟩
  case ldB => exact ⟨_, decodeWord_of_match_groupF hw rfl decodeGroupF_ldB⟩
  case ldMemVx => exact ⟨_, decodeWord_of_match_groupF hw rfl decodeGroupF_ldMemVx⟩
  case ldVxMem => exact ⟨_, decodeWord_of_match_groupF hw rfl decodeGroupF_ldVxMem⟩

open Laws in
/-- Every instruction's encoding selects its row of R85. -/
theorem encode_and_mask (i : Instr) : encode i &&& (opcodeRow i).mask = (opcodeRow i).pat := by
  cases i with
  | cls => exact TableRow.cls
  | ret => exact TableRow.ret
  | sys nnn => exact TableRow.sys nnn
  | jp nnn => exact TableRow.jp nnn
  | call nnn => exact TableRow.call nnn
  | seImm x nn => exact TableRow.seImm x nn
  | sneImm x nn => exact TableRow.sneImm x nn
  | seReg x y => exact TableRow.seReg x y
  | ldImm x nn => exact TableRow.ldImm x nn
  | addImm x nn => exact TableRow.addImm x nn
  | ldReg x y => exact TableRow.ldReg x y
  | orReg x y => exact TableRow.orReg x y
  | andReg x y => exact TableRow.andReg x y
  | xorReg x y => exact TableRow.xorReg x y
  | addReg x y => exact TableRow.addReg x y
  | sub x y => exact TableRow.sub x y
  | shr x y => exact TableRow.shr x y
  | subn x y => exact TableRow.subn x y
  | shl x y => exact TableRow.shl x y
  | sneReg x y => exact TableRow.sneReg x y
  | ldI nnn => exact TableRow.ldI nnn
  | jpV0 nnn => exact TableRow.jpV0 nnn
  | rnd x nn => exact TableRow.rnd x nn
  | drw x y n => exact TableRow.drw x y n
  | skp x => exact TableRow.skp x
  | sknp x => exact TableRow.sknp x
  | ldVxDt x => exact TableRow.ldVxDt x
  | ldVxK x => exact TableRow.ldVxK x
  | ldDtVx x => exact TableRow.ldDtVx x
  | ldStVx x => exact TableRow.ldStVx x
  | addI x => exact TableRow.addI x
  | ldF x => exact TableRow.ldF x
  | ldB x => exact TableRow.ldB x
  | ldMemVx x => exact TableRow.ldMemVx x
  | ldVxMem x => exact TableRow.ldVxMem x

/-- Settles O4: a word that matches a row decodes, and a word that decodes is an encoding (O3), which matches its row. -/
theorem illegalExactlyOutsideTheTable : Obligations.IllegalExactlyOutsideTheTable := by
  refine fun w => ⟨fun hill i hw => ?_, fun hnone => ?_⟩
  · obtain ⟨j, hj⟩ := decodeWord_ok_of_match hw
    rw [hill] at hj
    cases hj
  · cases h : decodeWord w with
    | error e => rw [decodeWord_error_eq h]
    | ok i =>
      obtain ⟨henc, -⟩ := encodeOfDecode w i h
      exact absurd (henc ▸ encode_and_mask i) (hnone i)

end Sys2Proof
end

section
/-! SUPPORT. The meanings not met before, each by its update of the state, and what each update leaves unchanged (10_state.md
R20). -/

namespace Sys2Proof

open Sys2Proof.Machine

section Meanings
variable (x y : Nibble) (nn : Byte) (nnn : Addr12) (s : State)

theorem exec_jp : exec (.jp nnn) s = .next (s.setPc (zextAddr nnn)) := rfl

theorem exec_jpV0 : exec (.jpV0 nnn) s = .next (s.setPc (bnnnTarget s.params.bnnnMode nnn (s.readReg 0))) := rfl

theorem exec_seReg : exec (.seReg x y) s = .next (s.skipIf (s.readReg x == s.readReg y)) := rfl

theorem exec_sneReg : exec (.sneReg x y) s = .next (s.skipIf (s.readReg x != s.readReg y)) := rfl

theorem exec_orReg : exec (.orReg x y) s = .next (s.writeReg x (s.readReg x ||| s.readReg y)) := rfl

theorem exec_andReg : exec (.andReg x y) s = .next (s.writeReg x (s.readReg x &&& s.readReg y)) := rfl

theorem exec_xorReg : exec (.xorReg x y) s = .next (s.writeReg x (s.readReg x ^^^ s.readReg y)) := rfl

theorem exec_rnd : exec (.rnd x nn) s = .next (s.writeReg x (Config.rndByte s.draws &&& nn)).consumeDraw := rfl

theorem exec_addI : exec (.addI x) s = .next (s.setI (s.I + zextByte (s.readReg x))) := rfl

theorem exec_ldF : exec (.ldF x) s = .next (s.setI (glyphAddr s.params.fx29Base (s.readReg x))) := rfl

theorem exec_skp : exec (.skp x) s = .next (keySkip (.skp x) (s.readReg x) (fun down => down) s) := rfl

theorem exec_sknp : exec (.sknp x) s = .next (keySkip (.sknp x) (s.readReg x) (fun down => !down) s) := rfl

theorem exec_call : exec (.call nnn) s = .next (callTo (.call nnn) nnn s) := rfl

theorem exec_sys : exec (.sys nnn) s = .next (callTo (.sys nnn) nnn s) := rfl

end Meanings

theorem exec_ldVxK_pressed (x : Nibble) {s : State} {k : Nibble} (h : s.lowestKey = some k) :
    exec (.ldVxK x) s = .next (s.writeReg x (k.setWidth 8)) := by simp only [exec, execLdVxK, h]

theorem exec_ldVxK_waits (x : Nibble) {s : State} (h : s.lowestKey = none) :
    exec (.ldVxK x) s = .next (s.setPc (s.pc - 2)) := by simp only [exec, execLdVxK, h]

section Frames
variable (s : State)

/-- A frame that names more pieces says less. -/
theorem unchanged_mono {ps qs : List Piece} {s t : State} (h : Unchanged ps s t) (hsub : ps ⊆ qs) : Unchanged qs s t :=
  fun p hp => h p (fun hmem => hp (hsub hmem))

theorem unchanged_setMem (m : Memory) : Unchanged [.mem] s (s.setMem m) := by
  have hfault : SameFault s (s.setMem m) := ⟨rfl, rfl, rfl, rfl, rfl⟩
  apply unchanged_of_fields <;> simp [hfault]

theorem unchanged_skipIf (c : Bool) : Unchanged [.pc] s (s.skipIf c) := by
  rw [s.skipIf_eq c]
  exact unchanged_setPc s _

/-- A written register and one random byte consumed (R38). -/
theorem unchanged_writeReg_consumeDraw (x : Nibble) (b : Byte) :
    Unchanged [.regs, .draws] s (s.writeReg x b).consumeDraw := by
  have hfault : SameFault s (s.writeReg x b).consumeDraw := ⟨rfl, rfl, rfl, rfl, rfl⟩
  apply unchanged_of_fields <;> simp [hfault]

/-- A draw is a replaced framebuffer and a written flag. -/
theorem unchanged_setFb_writeFlag (f : Framebuffer) (b : Byte) :
    Unchanged [.pixels, .redraw, .regs] s ((s.setFb f).writeFlag b) := by
  have hfault : SameFault s ((s.setFb f).writeReg vfIndex b) := ⟨rfl, rfl, rfl, rfl, rfl⟩
  apply unchanged_of_fields <;> simp [hfault, State.writeFlag]

/-- The three pieces the control transfers write, the stack or not. -/
theorem unchanged_pc_stack_sp (a : Word) (k : Vector Word Config.stackDepth) (d : Fin (Config.stackDepth + 1)) :
    Unchanged [.pc, .sp, .stack] s { s with pc := a, stack := k, sp := d } := by
  have hfault : SameFault s { s with pc := a, stack := k, sp := d } := ⟨rfl, rfl, rfl, rfl, rfl⟩
  apply unchanged_of_fields <;> simp [hfault]

theorem unchanged_pc_sp (a : Word) (d : Fin (Config.stackDepth + 1)) :
    Unchanged [.pc, .sp] s { s with pc := a, sp := d } := by
  have hfault : SameFault s { s with pc := a, sp := d } := ⟨rfl, rfl, rfl, rfl, rfl⟩
  apply unchanged_of_fields <;> simp [hfault]

theorem unchanged_callTo (i : Instr) (nnn : Addr12) {s : State} (h : s.sp.val < 16) :
    Unchanged [.pc, .sp, .stack] s (callTo i nnn s) := by
  rw [callTo_room i nnn h]
  exact unchanged_pc_stack_sp s _ _ _

/-- On an index in range a key test is a conditional skip (R230, R231). -/
theorem keySkip_eq_skipIf (i : Instr) {v : Byte} (c : Bool → Bool) {s : State} (h : ¬15 < v.toNat) :
    keySkip i v c s = s.skipIf (c (s.keyDown (v.setWidth 4))) := if_neg h

theorem unchanged_keySkip (i : Instr) {v : Byte} (c : Bool → Bool) {s : State} (h : ¬15 < v.toNat) :
    Unchanged [.pc] s (keySkip i v c s) := by
  rw [keySkip_eq_skipIf i c h]
  exact unchanged_skipIf s _

end Frames

end Sys2Proof
end

section
/-! SUPPORT. Every instruction on either side of its own check (60_exceptions.md R250, R259): the fault it takes, and the pieces,
registers and bytes it writes. -/

namespace Sys2Proof

open Sys2Proof.Machine

/-- A check that answers a fault has fired, with that fault. -/
theorem check_eq_some {p : Prop} [Decidable p] {a b : FaultKind × Word} (h : (if p then some a else none) = some b) :
    p ∧ a = b := by
  simpa using h

/-- A check that answers nothing has not fired. -/
theorem check_eq_none {p : Prop} [Decidable p] {a : FaultKind × Word} (h : (if p then some a else none) = none) : ¬p := by
  simpa using h

/-- Where its own check fires, an instruction raises that fault and does nothing else (R251). -/
theorem exec_of_ownFault_eq_some {i : Instr} {s : State} {e : FaultKind} {n : Word} (h : ownFault i s = some (e, n)) :
    exec i s = .next (s.raiseIn i e n) := by
  cases i
  case ret =>
    obtain ⟨hsp, ⟨⟩⟩ := check_eq_some h
    exact execRet_empty hsp
  case sys nnn =>
    obtain ⟨hsp, ⟨⟩⟩ := check_eq_some h
    exact congrArg _ (callTo_full _ nnn hsp)
  case call nnn =>
    obtain ⟨hsp, ⟨⟩⟩ := check_eq_some h
    exact congrArg _ (callTo_full _ nnn hsp)
  case drw x y k =>
    obtain ⟨hrange, ⟨⟩⟩ := check_eq_some h
    exact execDrw_outOfRange hrange
  case ldB x =>
    obtain ⟨hrange, ⟨⟩⟩ := check_eq_some h
    exact execLdB_outOfRange hrange
  case ldMemVx x =>
    obtain ⟨hrange, ⟨⟩⟩ := check_eq_some h
    exact execLdMemVx_outOfRange hrange
  case ldVxMem x =>
    obtain ⟨hrange, ⟨⟩⟩ := check_eq_some h
    exact execLdVxMem_outOfRange hrange
  case skp x =>
    obtain ⟨hkey, ⟨⟩⟩ := check_eq_some h
    exact congrArg _ (keySkip_outOfRange _ _ hkey)
  case sknp x =>
    obtain ⟨hkey, ⟨⟩⟩ := check_eq_some h
    exact congrArg _ (keySkip_outOfRange _ _ hkey)
  all_goals cases h

/-- Settles O24: the fault is raised, which writes the record alone. -/
theorem execFaultIsPrecise : Obligations.ExecFaultIsPrecise :=
  fun _ s e n h => ⟨_, exec_of_ownFault_eq_some h, faultTaken_raise s e _ _ n⟩

/-- The complement of the draw's check, in the form its law takes. -/
theorem drw_inRange_of_not {n : Nibble} {s : State} (h : ¬(n.toNat ≠ 0 ∧ 0xFFF < s.I.toNat + n.toNat - 1)) :
    n.toNat = 0 ∨ s.I.toNat + n.toNat - 1 ≤ 0xFFF := by
  omega

/-- A stack that is not full has room. -/
theorem sp_lt_of_ne {s : State} (h : s.sp.val ≠ 16) : s.sp.val < 16 := Nat.lt_of_le_of_ne s.sp_le h

/-- Settles O21: each meaning is one update of the state, and the update's frame is the instruction's list of pieces. -/
theorem execWritesOnlyItsPieces : Obligations.ExecWritesOnlyItsPieces := by
  intro i s h
  cases i with
  | cls => exact ⟨_, exec_cls s, unchanged_setFb s _⟩
  | ret => exact ⟨_, execRet_entry (Nat.pos_of_ne_zero (check_eq_none h)), unchanged_pc_sp s _ _⟩
  | sys nnn => exact ⟨_, exec_sys nnn s, unchanged_callTo _ nnn (sp_lt_of_ne (check_eq_none h))⟩
  | jp nnn => exact ⟨_, exec_jp nnn s, unchanged_setPc s _⟩
  | call nnn => exact ⟨_, exec_call nnn s, unchanged_callTo _ nnn (sp_lt_of_ne (check_eq_none h))⟩
  | seImm x nn => exact ⟨_, exec_seImm x nn s, unchanged_skipIf s _⟩
  | sneImm x nn => exact ⟨_, exec_sneImm x nn s, unchanged_skipIf s _⟩
  | seReg x y => exact ⟨_, exec_seReg x y s, unchanged_skipIf s _⟩
  | ldImm x nn => exact ⟨_, exec_ldImm x nn s, unchanged_writeReg s x _⟩
  | addImm x nn => exact ⟨_, exec_addImm x nn s, unchanged_writeReg s x _⟩
  | ldReg x y => exact ⟨_, exec_ldReg x y s, unchanged_writeReg s x _⟩
  | orReg x y => exact ⟨_, exec_orReg x y s, unchanged_writeReg s x _⟩
  | andReg x y => exact ⟨_, exec_andReg x y s, unchanged_writeReg s x _⟩
  | xorReg x y => exact ⟨_, exec_xorReg x y s, unchanged_writeReg s x _⟩
  | addReg x y => exact ⟨_, exec_addReg x y s, unchanged_writeThenFlag s x _ _⟩
  | sub x y => exact ⟨_, exec_sub x y s, unchanged_writeThenFlag s x _ _⟩
  | shr x y => exact ⟨_, exec_shr x y s, unchanged_writeShift s x _ _⟩
  | subn x y => exact ⟨_, exec_subn x y s, unchanged_writeThenFlag s x _ _⟩
  | shl x y => exact ⟨_, exec_shl x y s, unchanged_writeShift s x _ _⟩
  | sneReg x y => exact ⟨_, exec_sneReg x y s, unchanged_skipIf s _⟩
  | ldI nnn => exact ⟨_, exec_ldI nnn s, unchanged_setI s _⟩
  | jpV0 nnn => exact ⟨_, exec_jpV0 nnn s, unchanged_setPc s _⟩
  | rnd x nn => exact ⟨_, exec_rnd x nn s, unchanged_writeReg_consumeDraw s x _⟩
  | drw x y n => exact ⟨_, execDrw_inRange (drw_inRange_of_not (check_eq_none h)), unchanged_setFb_writeFlag s _ _⟩
  | skp x => exact ⟨_, exec_skp x s, unchanged_keySkip _ _ (check_eq_none h)⟩
  | sknp x => exact ⟨_, exec_sknp x s, unchanged_keySkip _ _ (check_eq_none h)⟩
  | ldVxDt x => exact ⟨_, exec_ldVxDt x s, unchanged_writeReg s x _⟩
  | ldVxK x =>
    cases hkey : s.lowestKey with
    | some k => exact ⟨_, exec_ldVxK_pressed x hkey, unchanged_mono (unchanged_writeReg s x _) (by simp [mayWrite])⟩
    | none => exact ⟨_, exec_ldVxK_waits x hkey, unchanged_mono (unchanged_setPc s _) (by simp [mayWrite])⟩
  | ldDtVx x => exact ⟨_, exec_ldDtVx x s, unchanged_setDT s _⟩
  | ldStVx x => exact ⟨_, exec_ldStVx x s, unchanged_setST s _⟩
  | addI x => exact ⟨_, exec_addI x s, unchanged_setI s _⟩
  | ldF x => exact ⟨_, exec_ldF x s, unchanged_setI s _⟩
  | ldB x => exact ⟨_, execLdB_inRange (Nat.le_of_not_lt (check_eq_none h)), unchanged_setMem s _⟩
  | ldMemVx x => exact ⟨_, execLdMemVx_inRange (Nat.le_of_not_lt (check_eq_none h)), unchanged_setMem s _⟩
  | ldVxMem x => exact ⟨_, execLdVxMem_inRange (Nat.le_of_not_lt (check_eq_none h)), unchanged_setV s _⟩

/-- No instruction writes a piece outside its list, with its fault or without, but the fault record. -/
theorem exec_keeps {i : Instr} {s t : State} {p : Piece} (h : exec i s = .next t) (hp : p ∉ mayWrite i)
    (hf : p ≠ .faultState) : Agree s t p := by
  cases hown : ownFault i s with
  | none =>
    obtain ⟨u, hu, hframe⟩ := execWritesOnlyItsPieces i s hown
    cases h.symm.trans hu
    exact hframe p hp
  | some f =>
    obtain ⟨u, hu, -, -, -, -, -, hframe⟩ := execFaultIsPrecise i s f.1 f.2 hown
    cases h.symm.trans hu
    exact hframe p (by simpa using hf)

/-- An instruction that answers one written register leaves the others. -/
theorem readReg_of_exec_eq_writeReg {i : Instr} {s t : State} {x r : Nibble} {b : Byte}
    (hexec : exec i s = .next (s.writeReg x b)) (h : exec i s = .next t) (hr : r ≠ x) : t.readReg r = s.readReg r := by
  cases h.symm.trans hexec
  exact regsUnchanged_writeReg s x b r (by simpa using hr)

/-- An instruction that answers a result and a flag leaves the registers other than those two. -/
theorem readReg_of_exec_eq_writeThenFlag {i : Instr} {s t : State} {x r : Nibble} {v f : Byte}
    (hexec : exec i s = .next (s.writeThenFlag x v f)) (h : exec i s = .next t) (hr : ¬(r = x ∨ r = 0xF#4)) :
    t.readReg r = s.readReg r := by
  cases h.symm.trans hexec
  exact regsUnchanged_writeThenFlag s x v f r (by simpa using hr)

/-- A shift leaves the registers other than its own and `VF`. -/
theorem readReg_of_exec_eq_writeShift {i : Instr} {s t : State} {x r : Nibble} {g : Byte → Byte} {f : Byte}
    (hexec : exec i s = .next (s.writeShift x g f)) (h : exec i s = .next t) (hr : ¬(r = x ∨ r = 0xF#4)) :
    t.readReg r = s.readReg r := by
  cases h.symm.trans hexec
  exact regsUnchanged_writeShift s x g f r (by simpa using hr)

/-- A draw writes no register but `VF`, and none where it faults. -/
theorem readReg_of_exec_drw {x y n r : Nibble} {s t : State} (h : exec (.drw x y n) s = .next t) (hr : r ≠ 0xF#4) :
    t.readReg r = s.readReg r := by
  by_cases hrange : n.toNat ≠ 0 ∧ 0xFFF < s.I.toNat + n.toNat - 1
  · cases h.symm.trans (execDrw_outOfRange hrange)
    rfl
  · cases h.symm.trans (execDrw_inRange (drw_inRange_of_not hrange))
    exact regsUnchanged_writeReg _ 0xF _ r (by simpa using hr)

/-- A load of registers writes none above its last, and none where it faults. -/
theorem readReg_of_exec_ldVxMem {x r : Nibble} {s t : State} (h : exec (.ldVxMem x) s = .next t)
    (hr : ¬r.toNat ≤ x.toNat) : t.readReg r = s.readReg r := by
  by_cases hrange : 0xFFF < s.I.toNat + x.toNat
  · cases h.symm.trans (execLdVxMem_outOfRange hrange)
    rfl
  · cases h.symm.trans (execLdVxMem_inRange (Nat.le_of_not_lt hrange))
    have hx : x.toNat + 1 ≤ 16 := x.isLt
    exact (loadRegs_getElem s.mem s.I.toNat s.V hx r).trans (if_neg (by omega))

/-- Settles O22: an instruction that writes registers answers one of five updates of them, and every other leaves the piece. -/
theorem execWritesOnlyItsRegisters : Obligations.ExecWritesOnlyItsRegisters := by
  intro i s t r h hr
  cases i
  case ldImm x nn => exact readReg_of_exec_eq_writeReg (exec_ldImm x nn s) h hr
  case addImm x nn => exact readReg_of_exec_eq_writeReg (exec_addImm x nn s) h hr
  case ldReg x y => exact readReg_of_exec_eq_writeReg (exec_ldReg x y s) h hr
  case orReg x y => exact readReg_of_exec_eq_writeReg (exec_orReg x y s) h hr
  case andReg x y => exact readReg_of_exec_eq_writeReg (exec_andReg x y s) h hr
  case xorReg x y => exact readReg_of_exec_eq_writeReg (exec_xorReg x y s) h hr
  case addReg x y => exact readReg_of_exec_eq_writeThenFlag (exec_addReg x y s) h hr
  case sub x y => exact readReg_of_exec_eq_writeThenFlag (exec_sub x y s) h hr
  case subn x y => exact readReg_of_exec_eq_writeThenFlag (exec_subn x y s) h hr
  case shr x y => exact readReg_of_exec_eq_writeShift (exec_shr x y s) h hr
  case shl x y => exact readReg_of_exec_eq_writeShift (exec_shl x y s) h hr
  case rnd x nn =>
    cases h.symm.trans (exec_rnd x nn s)
    exact regsUnchanged_writeReg s x _ r (List.mem_singleton.not.mpr hr)
  case drw x y n => exact readReg_of_exec_drw h hr
  case ldVxDt x => exact readReg_of_exec_eq_writeReg (exec_ldVxDt x s) h hr
  case ldVxK x =>
    cases hkey : s.lowestKey with
    | some k => exact readReg_of_exec_eq_writeReg (exec_ldVxK_pressed x hkey) h hr
    | none =>
      cases h.symm.trans (exec_ldVxK_waits x hkey)
      rfl
  case ldVxMem x => exact readReg_of_exec_ldVxMem h hr
  all_goals exact exec_keeps (p := .regs) h (by simp [mayWrite]) (by simp) r

section MemoryFields
variable (s : State)

theorem mem_skipIf (c : Bool) : (s.skipIf c).mem = s.mem := by rw [s.skipIf_eq c, State.setPc_mem]

theorem mem_writeShift (x : Nibble) (g : Byte → Byte) (f : Byte) : (s.writeShift x g f).mem = s.mem := by
  rw [s.writeShift_eq x g f, State.setV_mem]

theorem mem_callTo (i : Instr) (nnn : Addr12) {s : State} (h : s.sp.val < 16) : (callTo i nnn s).mem = s.mem := by
  rw [callTo_room i nnn h]

theorem mem_keySkip (i : Instr) {v : Byte} (c : Bool → Bool) {s : State} (h : ¬15 < v.toNat) :
    (keySkip i v c s).mem = s.mem := by rw [keySkip_eq_skipIf i c h, mem_skipIf]

end MemoryFields

/-- An instruction that stores nothing leaves memory as data, not only as what it reads. -/
theorem mem_of_exec_of_storedBytes_eq_zero {i : Instr} {s t : State} (hi : storedBytes i = 0) (h : exec i s = .next t) :
    t.mem = s.mem := by
  cases hown : ownFault i s with
  | some f =>
    cases h.symm.trans (exec_of_ownFault_eq_some hown)
    rfl
  | none =>
    cases i
    case ldB x => cases hi
    case ldMemVx x => cases hi
    case seImm x nn => cases h; exact mem_skipIf s _
    case sneImm x nn => cases h; exact mem_skipIf s _
    case seReg x y => cases h; exact mem_skipIf s _
    case sneReg x y => cases h; exact mem_skipIf s _
    case shr x y => cases h; exact mem_writeShift s x _ _
    case shl x y => cases h; exact mem_writeShift s x _ _
    case sys nnn => cases h; exact mem_callTo _ nnn (sp_lt_of_ne (check_eq_none hown))
    case call nnn => cases h; exact mem_callTo _ nnn (sp_lt_of_ne (check_eq_none hown))
    case skp x => cases h; exact mem_keySkip _ _ (check_eq_none hown)
    case sknp x => cases h; exact mem_keySkip _ _ (check_eq_none hown)
    case ret => cases h.symm.trans (execRet_entry (Nat.pos_of_ne_zero (check_eq_none hown))); rfl
    case drw x y n => cases h.symm.trans (execDrw_inRange (drw_inRange_of_not (check_eq_none hown))); rfl
    case ldVxMem x => cases h.symm.trans (execLdVxMem_inRange (Nat.le_of_not_lt (check_eq_none hown))); rfl
    case ldVxK x =>
      cases hkey : s.lowestKey with
      | some k => cases h.symm.trans (exec_ldVxK_pressed x hkey); rfl
      | none => cases h.symm.trans (exec_ldVxK_waits x hkey); rfl
    all_goals cases h; rfl

/-- What an instruction leaves in memory (R62): all of it, or, within the address space, the bytes it stores from `I` on. -/
theorem mem_of_exec {i : Instr} {s t : State} (h : exec i s = .next t) :
    t.mem = s.mem ∨ ∃ bs : List Byte, bs.length = storedBytes i ∧ s.I.toNat + bs.length ≤ Config.memSize ∧
      t.mem = memWriteList s.mem s.I.toNat bs := by
  cases hown : ownFault i s with
  | some f =>
    cases h.symm.trans (exec_of_ownFault_eq_some hown)
    exact .inl rfl
  | none =>
    cases i
    case ldB x =>
      have hrange : s.I.toNat + 2 ≤ 0xFFF := Nat.le_of_not_lt (check_eq_none hown)
      cases h.symm.trans (execLdB_inRange hrange)
      exact .inr ⟨bcdDigits (s.readReg x), rfl, Nat.lt_succ_of_le hrange, rfl⟩
    case ldMemVx x =>
      have hrange : s.I.toNat + x.toNat ≤ 0xFFF := Nat.le_of_not_lt (check_eq_none hown)
      cases h.symm.trans (execLdMemVx_inRange hrange)
      have hlen := s.regList_length (x.toNat + 1)
      have hend : s.I.toNat + (s.regList (x.toNat + 1)).length ≤ 0x1000 := by omega
      exact .inr ⟨s.regList (x.toNat + 1), hlen, hend, rfl⟩
    all_goals exact .inl (mem_of_exec_of_storedBytes_eq_zero rfl h)

/-- Settles O23: memory is kept or written from `I` on, and a write leaves the addresses outside it. -/
theorem execStoresOnlyItsBytes : Obligations.ExecStoresOnlyItsBytes := by
  intro i s t a h ha
  simp only [State.readMem]
  rcases mem_of_exec h with hmem | ⟨bs, hlen, -, hmem⟩
  · rw [hmem]
  · rw [hmem]
    exact memRead_memWriteList_out (hlen.symm ▸ ha)

end Sys2Proof
end

section
/-! SUPPORT. The parameter VF_ORDER (44_alu.md R180, decision D10): a change of it passes through every instruction but a shift of
`VF`. -/

namespace Sys2Proof

open Sys2Proof.Machine

/-- The state under another value of VF_ORDER. -/
def withVfOrder (o : Config.VfOrder) (s : State) : State := { s with params := { s.params with vfOrder := o } }

section Commutes
variable (o : Config.VfOrder) (s : State)

theorem ownFault_withVfOrder (i : Instr) : ownFault i (withVfOrder o s) = ownFault i s := by cases i <;> rfl

theorem skipIf_withVfOrder (c : Bool) : (withVfOrder o s).skipIf c = withVfOrder o (s.skipIf c) := by cases c <;> rfl

/-- Off `VF` the two writes of a shift commute, so both orders give the result and the flag (R180). -/
theorem writeShift_of_ne_vf {s : State} {x : Nibble} (g : Byte → Byte) (f : Byte) (hx : x ≠ 0xF#4) :
    s.writeShift x g f = s.writeThenFlag x (g (s.readReg x)) f := by
  simp only [State.writeShift]
  cases s.params.vfOrder with
  | flagLast => rfl
  | tableOrder =>
    have hread : (s.writeFlag f).readReg x = s.readReg x := regsUnchanged_writeReg s 0xF f x (by simpa using hx)
    have hidx : vfIndex.toNat ≠ x.toNat := fun h => hx (BitVec.eq_of_toNat_eq h.symm)
    show (s.writeFlag f).writeReg x (g ((s.writeFlag f).readReg x)) = (s.writeReg x (g (s.readReg x))).writeFlag f
    rw [hread]
    refine congrArg s.setV ?_
    exact Vector.set_comm _ _ hidx

theorem writeShift_withVfOrder (g : Byte → Byte) (f : Byte) {x : Nibble} (hx : x ≠ 0xF#4) :
    (withVfOrder o s).writeShift x g f = withVfOrder o (s.writeShift x g f) := by
  rw [writeShift_of_ne_vf g f hx, writeShift_of_ne_vf g f hx]
  rfl

theorem callTo_withVfOrder (i : Instr) (nnn : Addr12) {s : State} (h : s.sp.val < 16) :
    callTo i nnn (withVfOrder o s) = withVfOrder o (callTo i nnn s) := by
  rw [callTo_room i nnn h, callTo_room (s := withVfOrder o s) i nnn h]
  rfl

theorem keySkip_withVfOrder (i : Instr) {v : Byte} (c : Bool → Bool) (h : ¬15 < v.toNat) :
    keySkip i v c (withVfOrder o s) = withVfOrder o (keySkip i v c s) := by
  rw [keySkip_eq_skipIf i c h, keySkip_eq_skipIf i c h]
  exact skipIf_withVfOrder o s _

/-- What Fx55 stores depends on the registers alone. -/
theorem regList_congr {s t : State} (h : t.V = s.V) (k : Nat) : t.regList k = s.regList k := by
  induction k with
  | zero => rfl
  | succ k ih => simp only [State.regList, ih, State.readReg_congr h]

/-- A meaning known on both states, with the parameter changed in its answer alone. -/
theorem exec_withVfOrder_of_exec {i : Instr} {o : Config.VfOrder} {s t : State} (hs : exec i s = .next t)
    (ho : exec i (withVfOrder o s) = .next (withVfOrder o t)) :
    exec i (withVfOrder o s) = mapNext (withVfOrder o) (exec i s) := by
  rw [hs]
  exact ho

end Commutes

/-- Settles O26: no check reads the parameter; of the updates only a shift does, and off `VF` its two orders agree. -/
theorem vfOrderMattersOnlyForShiftsOfVF : Obligations.VfOrderMattersOnlyForShiftsOfVF := by
  intro i s o hshift
  show exec i (withVfOrder o s) = mapNext (withVfOrder o) (exec i s)
  cases hown : ownFault i s with
  | some f =>
    rw [exec_of_ownFault_eq_some hown, exec_of_ownFault_eq_some ((ownFault_withVfOrder o s i).trans hown)]
    rfl
  | none =>
    cases i
    case seImm x nn => exact congrArg _ (skipIf_withVfOrder o s _)
    case sneImm x nn => exact congrArg _ (skipIf_withVfOrder o s _)
    case seReg x y => exact congrArg _ (skipIf_withVfOrder o s _)
    case sneReg x y => exact congrArg _ (skipIf_withVfOrder o s _)
    case shr x y => exact congrArg _ (writeShift_withVfOrder o s _ _ (hshift x y (.inl rfl)))
    case shl x y => exact congrArg _ (writeShift_withVfOrder o s _ _ (hshift x y (.inr rfl)))
    case sys nnn => exact congrArg _ (callTo_withVfOrder o _ nnn (sp_lt_of_ne (check_eq_none hown)))
    case call nnn => exact congrArg _ (callTo_withVfOrder o _ nnn (sp_lt_of_ne (check_eq_none hown)))
    case skp x => exact congrArg _ (keySkip_withVfOrder o s _ _ (check_eq_none hown))
    case sknp x => exact congrArg _ (keySkip_withVfOrder o s _ _ (check_eq_none hown))
    case ret =>
      have hsp : 0 < s.sp.val := Nat.pos_of_ne_zero (check_eq_none hown)
      exact exec_withVfOrder_of_exec (execRet_entry hsp) (execRet_entry (s := withVfOrder o s) hsp)
    case drw x y n =>
      have hrange := drw_inRange_of_not (check_eq_none hown)
      exact exec_withVfOrder_of_exec (execDrw_inRange hrange) (execDrw_inRange (s := withVfOrder o s) hrange)
    case ldB x =>
      have hrange : s.I.toNat + 2 ≤ 0xFFF := Nat.le_of_not_lt (check_eq_none hown)
      exact exec_withVfOrder_of_exec (execLdB_inRange hrange) (execLdB_inRange (s := withVfOrder o s) hrange)
    case ldMemVx x =>
      have hrange : s.I.toNat + x.toNat ≤ 0xFFF := Nat.le_of_not_lt (check_eq_none hown)
      refine exec_withVfOrder_of_exec (execLdMemVx_inRange hrange)
        ((execLdMemVx_inRange (s := withVfOrder o s) hrange).trans ?_)
      rw [regList_congr (t := withVfOrder o s) (s := s) rfl]
      rfl
    case ldVxMem x =>
      have hrange : s.I.toNat + x.toNat ≤ 0xFFF := Nat.le_of_not_lt (check_eq_none hown)
      exact exec_withVfOrder_of_exec (execLdVxMem_inRange hrange) (execLdVxMem_inRange (s := withVfOrder o s) hrange)
    case ldVxK x =>
      cases hkey : s.lowestKey with
      | some k =>
        exact exec_withVfOrder_of_exec (exec_ldVxK_pressed x hkey) (exec_ldVxK_pressed (s := withVfOrder o s) x hkey)
      | none =>
        exact exec_withVfOrder_of_exec (exec_ldVxK_waits x hkey) (exec_ldVxK_waits (s := withVfOrder o s) x hkey)
    all_goals rfl

end Sys2Proof
end

section
/-! SUPPORT. One step (40_engine_cycle.md R101 to R108): its equation for each of its four cases, and what each case means for the
state it answers. -/

namespace Sys2Proof

open Sys2Proof.Machine

section StepEquations
variable {s : State} {i : Instr}

theorem step_of_faulted (h : s.run = .faulted) : step s = .next s := by simp only [step, h]

theorem step_of_fetch_past_memory (hrun : s.run = .running) (hpc : 0xFFE < s.pc.toNat) :
    step s = .next (s.raiseFetch (if s.pc = 0xFFF#16 then 0x1000#16 else s.pc)) := by
  simp only [step, hrun, State.fetch_error hpc]

theorem step_of_illegal (hrun : s.run = .running) (hpc : s.pc.toNat ≤ 0xFFE) {e : DecodeError}
    (hdec : decodeWord (s.readOpcode s.pc.toNat) = .error e) :
    step s = .next (s.advance.raiseIllegal (s.readOpcode s.pc.toNat)) := by
  simp only [step, hrun, State.fetch_ok hpc, hdec]

theorem step_of_decoded (hrun : s.run = .running) (hpc : s.pc.toNat ≤ 0xFFE)
    (hdec : decodeWord (s.readOpcode s.pc.toNat) = .ok i) : step s = exec i s.advance := by
  simp only [step, hrun, State.fetch_ok hpc, hdec]

end StepEquations

/-- Within an instruction `pc - 2` is the address it was fetched from (R103). -/
theorem advance_pc_sub_two (s : State) : s.advance.pc - 2 = s.pc := BitVec.add_sub_cancel s.pc 2

/-- Every instruction answers a next state, with its fault or without (log entry 5). -/
theorem exec_eq_next (i : Instr) (s : State) : ∃ t, exec i s = .next t := by
  cases hown : ownFault i s with
  | none =>
    obtain ⟨t, ht, -⟩ := execWritesOnlyItsPieces i s hown
    exact ⟨t, ht⟩
  | some f => exact ⟨_, exec_of_ownFault_eq_some hown⟩

/-- Settles O7: the two bytes at `pc` are the opcode fetched. -/
theorem stepRunsTheDecodedInstruction : Obligations.StepRunsTheDecodedInstruction :=
  fun _ _ hrun hpc hdec => step_of_decoded hrun hpc hdec

/-- Settles O8: the fetch fault is raised at `pc`. -/
theorem fetchPastMemoryFaults : Obligations.FetchPastMemoryFaults :=
  fun s hrun hpc => ⟨_, step_of_fetch_past_memory hrun hpc, faultTaken_raise s .memoryOutOfRange s.pc 0 _⟩

/-- Settles O9: the fault is raised on the state advanced past the opcode. -/
theorem illegalOpcodeFaults : Obligations.IllegalOpcodeFaults := by
  rintro s w hrun hpc rfl hdec
  have hfault := faultTaken_raise s.advance .illegalInstruction (s.advance.pc - 2) (s.readOpcode s.pc.toNat) 0
  rw [advance_pc_sub_two] at hfault
  refine ⟨_, step_of_illegal hrun hpc hdec, rfl, ?_⟩
  rw [State.raiseIllegal, advance_pc_sub_two]
  exact hfault

/-- Settles O11, from the four cases of a step. -/
theorem stepAlwaysAnswersANextState : Obligations.StepAlwaysAnswersANextState := by
  intro s
  rcases step_cases s with ⟨-, h⟩ | ⟨-, -, h⟩ | ⟨-, -, e, -, h⟩ | ⟨-, -, i, -, h⟩
  · exact ⟨_, h⟩
  · exact ⟨_, h⟩
  · exact ⟨_, h⟩
  · rw [h]
    exact exec_eq_next i s.advance

/-- Settles O25: the instruction's fault is precise (O24), its encoding is the opcode that decoded to it (O3), and its address
the one fetched from. -/
theorem stepRecordsTheFetchedOpcode : Obligations.StepRecordsTheFetchedOpcode := by
  rintro s w i e n hrun hpc rfl hdec hown
  obtain ⟨t, ht, hfault⟩ := execFaultIsPrecise i s.advance e n hown
  obtain ⟨henc, -⟩ := encodeOfDecode _ i hdec
  rw [advance_pc_sub_two, henc] at hfault
  exact ⟨t, (step_of_decoded hrun hpc hdec).trans ht, hfault⟩

section Halt
variable {a : Word}

/-- The opcode of a jump to an address within memory, as a number. -/
theorem toNat_or_jp (ha : a.toNat ≤ 0xFFE) : (0x1000#16 ||| a).toNat = 0x1000 + a.toNat := by
  have hlt : a.toNat < 2 ^ 12 := by omega
  exact (BitVec.toNat_or 0x1000#16 a).trans (Nat.two_pow_add_eq_or_of_lt hlt 1).symm

theorem fieldOp_or_jp (ha : a.toNat ≤ 0xFFE) : fieldOp (0x1000#16 ||| a) = 0x1#4 := by
  apply BitVec.eq_of_toNat_eq
  rw [toNat_fieldOp, toNat_or_jp ha, BitVec.toNat_ofNat]
  omega

theorem zextAddr_fieldNNN_or_jp (ha : a.toNat ≤ 0xFFE) : zextAddr (fieldNNN (0x1000#16 ||| a)) = a := by
  apply BitVec.eq_of_toNat_eq
  rw [zextAddr_toNat, toNat_fieldNNN, toNat_or_jp ha]
  omega

end Halt

/-- Settles O12: the opcode at `pc` jumps back to `pc`, and a jump changes nothing else. -/
theorem haltedEngineStaysPut : Obligations.HaltedEngineStaysPut := by
  rintro s ⟨hrun, hpc, hop⟩
  rw [step_of_decoded hrun hpc (hop ▸ decodeWord_jp (fieldOp_or_jp hpc)), exec_jp, hop, zextAddr_fieldNNN_or_jp hpc]
  rfl

end Sys2Proof
end

section
/-! SUPPORT. The host's operations (40_engine_cycle.md R110, R112, 46_keypad_timers.md R240, R241, 70_reset_and_hazards.md R280 to
R285): each on a running and on a faulted engine, the stages of a cycle, and construct. -/

namespace Sys2Proof

open Sys2Proof.Machine

theorem deliverKey_of_faulted {s : State} (h : s.run = .faulted) (k : Nibble) (p : Bool) : s.deliverKey k p = s := by
  simp only [State.deliverKey, h]

theorem deliverKey_of_running {s : State} (h : s.run = .running) (k : Nibble) (p : Bool) :
    s.deliverKey k p = { s with keys := s.keys.set k.toNat p k.isLt } := by
  simp only [State.deliverKey, h]

theorem clearRedraw_of_faulted {s : State} (h : s.run = .faulted) : s.clearRedraw = s := by
  simp only [State.clearRedraw, h]

theorem clearRedraw_of_running {s : State} (h : s.run = .running) : s.clearRedraw = { s with redraw := false } := by
  simp only [State.clearRedraw, h]

theorem beforeStep_of_faulted {s : State} (h : s.run = .faulted) (q : Requests) : beforeStep q s = s := by
  cases hkey : q.key <;> simp [beforeStep, hkey, deliverKey_of_faulted h, clearRedraw_of_faulted h]

/-- Settles O10: every stage of a cycle leaves a faulted engine alone. -/
theorem faultedEngineIsFinal : Obligations.FaultedEngineIsFinal := by
  refine fun s h => ⟨step_of_faulted h, fun q hq => ?_⟩
  simp [cycle, hq, beforeStep_of_faulted h, step_of_faulted h, mapNext, tickTimers_of_faulted h]

/-- The two stages before the step: the key event, then the clear. -/
theorem beforeStep_stages (q : Requests) (s : State) : ∃ a : State,
    (∀ k p, q.key = some (k, p) → a = s.deliverKey k p) ∧ (q.key = none → a = s) ∧
    beforeStep q s = if q.clearRedraw then a.clearRedraw else a := by
  cases hkey : q.key with
  | none => exact ⟨s, nofun, fun _ => rfl, by simp only [beforeStep, hkey]⟩
  | some kp =>
    refine ⟨s.deliverKey kp.1 kp.2, fun k p h => ?_, nofun, by simp only [beforeStep, hkey]⟩
    cases h
    rfl

/-- The stage of the step. -/
theorem step_stage (q : Requests) (b : State) : ∃ c : State,
    (q.step = true → step b = .next c) ∧ (q.step = false → c = b) ∧ (if q.step then step b else .next b) = .next c := by
  cases q.step with
  | false => exact ⟨b, nofun, fun _ => rfl, rfl⟩
  | true =>
    obtain ⟨c, hc⟩ := stepAlwaysAnswersANextState b
    exact ⟨c, fun _ => hc, nofun, hc⟩

/-- Settles O13: the stages before the step, the step, and the tick, one after the other. -/
theorem requestOrderInACycle : Obligations.RequestOrderInACycle := by
  refine ⟨fun s q hq => ?_, fun s q rom hq => by simp only [cycle, hq]⟩
  obtain ⟨a, hkey, hnokey, hbefore⟩ := beforeStep_stages q s
  obtain ⟨c, hstep, hnostep, hc⟩ := step_stage q (beforeStep q s)
  refine ⟨a, beforeStep q s, c, if q.tick then c.tickTimers else c, hkey, hnokey, fun h => ?_, fun h => ?_, hstep, hnostep,
    fun h => if_pos h, fun h => ?_, ?_⟩
  · rw [hbefore, if_pos h]
  · rw [hbefore, h]
    rfl
  · rw [h]
    rfl
  · simp only [cycle, hq, hc, mapNext]

theorem unchanged_keys (s : State) (v : Vector Bool 16) : Unchanged [.keys] s { s with keys := v } := by
  have hfault : SameFault s { s with keys := v } := ⟨rfl, rfl, rfl, rfl, rfl⟩
  apply unchanged_of_fields <;> simp [hfault]

theorem unchanged_redraw (s : State) (b : Bool) : Unchanged [.redraw] s { s with redraw := b } := by
  have hfault : SameFault s { s with redraw := b } := ⟨rfl, rfl, rfl, rfl, rfl⟩
  apply unchanged_of_fields <;> simp [hfault]

/-- A key read after a key event (R241). -/
theorem keyDown_deliverKey {s : State} (h : s.run = .running) (k j : Nibble) (p : Bool) :
    (s.deliverKey k p).keyDown j = if j = k then p else s.keyDown j := by
  simp only [deliverKey_of_running h, State.keyDown, Vector.getElem_set, BitVec.toNat_eq, eq_comm]

/-- The second of two equal key events writes what the first one did. -/
theorem deliverKey_deliverKey {s : State} (h : s.run = .running) (k : Nibble) (p : Bool) :
    (s.deliverKey k p).deliverKey k p = s.deliverKey k p := by
  have hrun : (s.deliverKey k p).run = .running := by rwa [deliverKey_of_running h]
  rw [deliverKey_of_running hrun]
  simp only [deliverKey_of_running h, Vector.set_set]

/-- Settles O56: a key event is one replaced key, a clear one replaced flag. -/
theorem keyEventAndRedrawClear : Obligations.KeyEventAndRedrawClear := by
  intro s k p h
  refine ⟨(keyDown_deliverKey h k k p).trans (if_pos rfl), fun j hj => (keyDown_deliverKey h k j p).trans (if_neg hj),
    ?_, deliverKey_deliverKey h k p, ?_, ?_⟩
  · rw [deliverKey_of_running h]
    exact unchanged_keys s _
  · rw [clearRedraw_of_running h]
  · rw [clearRedraw_of_running h]
    exact unchanged_redraw s false

/-- Settles O55: on a running engine any number of ticks is one update of the two timers. -/
theorem ticksCountDown : Obligations.TicksCountDown := by
  refine fun s k h => ⟨toNat_DT_tickTimers_iterate h k, toNat_ST_tickTimers_iterate h k, ?_⟩
  rw [tickTimers_iterate_of_running h]
  have hsame : SameFault s ((s.setDT (tickDown^[k] s.DT)).setST (tickDown^[k] s.ST)) := ⟨rfl, rfl, rfl, rfl, rfl⟩
  apply unchanged_of_fields <;> simp [hsame]

end Sys2Proof
end

section
/-! SUPPORT. The invariant of every run (10_state.md R35, 42_control_flow.md R150, R154, 60_exceptions.md R250, R251): kept by each
update of the state, and so by every instruction and every step. -/

namespace Sys2Proof

open Sys2Proof.Machine

/-- The record of a running engine is empty, wherever `pc` is. -/
theorem recordOk_iff_of_running {s : State} (h : s.run = .running) :
    RecordOk s ↔ s.faultCode = 0 ∧ s.faultPc = 0 ∧ s.faultOpcode = 0 ∧ s.faultInfo = 0 := by
  simp only [RecordOk, h]

theorem recordOk_iff_of_faulted {s : State} (h : s.run = .faulted) :
    RecordOk s ↔ s.faultCode ≠ 0 ∧ s.faultCode.toNat ≤ 6 ∧
      (s.pc = s.faultPc + 2 ∨ (s.pc = s.faultPc ∧ s.faultOpcode = 0)) := by
  simp only [RecordOk, h]

/-- The codes of R250 are 1 to 6. -/
theorem faultKind_code_bounds (e : FaultKind) : e.code ≠ 0 ∧ e.code.toNat ≤ 6 := by cases e <;> decide

/-- On a running engine the record stays sound under any change of the other pieces. -/
theorem recordOk_of_sameFault_of_running {s t : State} (h : RecordOk s) (hrun : s.run = .running) (hf : SameFault s t) :
    RecordOk t := by
  obtain ⟨hr, hcode, hpc, hop, hinfo⟩ := hf
  rw [recordOk_iff_of_running (hr.trans hrun), hcode, hpc, hop, hinfo]
  exact (recordOk_iff_of_running hrun).mp h

theorem recordOk_of_sameFault_of_pc {s t : State} (h : RecordOk s) (hf : SameFault s t) (hpc : t.pc = s.pc) :
    RecordOk t := by
  cases hrun : s.run with
  | running => exact recordOk_of_sameFault_of_running h hrun hf
  | faulted =>
    obtain ⟨hr, hcode, hfpc, hop, -⟩ := hf
    rw [recordOk_iff_of_faulted (hr.trans hrun), hcode, hfpc, hop, hpc]
    exact (recordOk_iff_of_faulted hrun).mp h

/-- A change outside memory, `pc`, the stack and the fault record keeps the invariant. -/
theorem inv_of_same {s t : State} (h : Inv s) (hmem : t.mem = s.mem) (hf : SameFault s t) (hpc : t.pc = s.pc)
    (hstack : t.stack = s.stack) (hsp : t.sp = s.sp) : Inv t where
  memory := hmem ▸ h.memory
  record := recordOk_of_sameFault_of_pc h.record hf hpc
  pcBound := hpc ▸ h.pcBound
  returns := by simpa only [hstack, hsp] using h.returns

/-- A raised fault keeps the invariant where its address is one that R251 allows. -/
theorem inv_raise {s : State} (h : Inv s) (e : FaultKind) {p o : Word} (n : Word)
    (hpc : s.pc = p + 2 ∨ (s.pc = p ∧ o = 0)) : Inv (s.raise e p o n) where
  memory := h.memory
  record := ⟨(faultKind_code_bounds e).1, (faultKind_code_bounds e).2, hpc⟩
  pcBound := h.pcBound
  returns := h.returns

/-- On a running engine `pc` may go anywhere up to the largest `Bnnn` target. -/
theorem inv_setPc {s : State} (h : Inv s) (hrun : s.run = .running) {a : Word} (ha : a.toNat ≤ 0x10FE) :
    Inv (s.setPc a) where
  memory := h.memory
  record := recordOk_of_sameFault_of_running h.record hrun ⟨rfl, rfl, rfl, rfl, rfl⟩
  pcBound := ha
  returns := h.returns

/-- The advance past an opcode in memory (R103). -/
theorem toNat_advance_pc {s : State} (hpc : s.pc.toNat ≤ 0xFFE) : s.advance.pc.toNat = s.pc.toNat + 2 := by
  have hadd : s.advance.pc.toNat = (s.pc.toNat + 2) % 65536 := BitVec.toNat_add s.pc 2
  omega

section Instructions
variable {i : Instr} {s t : State}

/-- An instruction keeps the canonical form: it writes within the address space or not at all. -/
theorem wf_of_exec (h : Memory.wf s.mem) (hexec : exec i s = .next t) : Memory.wf t.mem := by
  rcases mem_of_exec hexec with hmem | ⟨bs, -, hspace, hmem⟩
  · exact hmem ▸ h
  · exact hmem ▸ memWriteList_wf h hspace

/-- An instruction that raises its own fault keeps the invariant: its address is `pc - 2`. -/
theorem inv_of_ownFault (h : Inv s) {f : FaultKind × Word} (hown : ownFault i s = some f) (hexec : exec i s = .next t) :
    Inv t := by
  cases hexec.symm.trans (exec_of_ownFault_eq_some hown)
  exact inv_raise h f.1 f.2 (.inl (BitVec.sub_add_cancel s.pc 2).symm)

/-- An instruction that leaves `pc` and the stack alone keeps the invariant: its frame is all but memory. -/
theorem inv_of_frame (h : Inv s) (hown : ownFault i s = none) (hexec : exec i s = .next t)
    (hkept : ∀ p ∈ [Piece.faultState, .pc, .stack, .sp], p ∉ mayWrite i) : Inv t := by
  obtain ⟨u, hu, hframe⟩ := execWritesOnlyItsPieces i s hown
  cases hexec.symm.trans hu
  have hfault : SameFault s t := hframe .faultState (hkept _ (by simp))
  have hpc : t.pc = s.pc := hframe .pc (hkept _ (by simp))
  have hsp : t.sp = s.sp := hframe .sp (hkept _ (by simp))
  have hstack : ∀ k : Fin Config.stackDepth, t.stack[k] = s.stack[k] := hframe .stack (hkept _ (by simp))
  exact {
    memory := wf_of_exec h.memory hexec
    record := recordOk_of_sameFault_of_pc h.record hfault hpc
    pcBound := hpc ▸ h.pcBound
    returns := fun k hk => hstack k ▸ h.returns k (hsp ▸ hk) }

/-- A call pushes `pc`, which is at most 0x1000, and jumps into memory. -/
theorem inv_callTo (h : Inv s) (hrun : s.run = .running) (hpc : s.pc.toNat ≤ 0x1000) (hsp : s.sp.val < 16) (i : Instr)
    (nnn : Addr12) : Inv (callTo i nnn s) := by
  rw [callTo_room i nnn hsp]
  refine ⟨h.memory, recordOk_of_sameFault_of_running h.record hrun ⟨rfl, rfl, rfl, rfl, rfl⟩, ?_, fun k hk => ?_⟩
  · exact Nat.le_trans (toNat_zextAddr_le nnn) (by decide)
  · show ((s.stack.set s.sp.val s.pc hsp)[k.val]).toNat ≤ 0x1000
    rw [Vector.getElem_set]
    split
    · exact hpc
    · next hne =>
      have hold : k.val < s.sp.val + 1 := hk
      exact h.returns k (by omega)

/-- A return goes to a valid return address, which is at most 0x1000. -/
theorem inv_of_exec_ret (h : Inv s) (hrun : s.run = .running) (hsp : 0 < s.sp.val) (hexec : exec .ret s = .next t) :
    Inv t := by
  cases hexec.symm.trans (execRet_entry hsp)
  have hlt : s.sp.val - 1 < Config.stackDepth := by have := s.sp_le; omega
  have htop := h.returns ⟨s.sp.val - 1, hlt⟩ (Nat.sub_lt hsp one_pos)
  refine ⟨h.memory, recordOk_of_sameFault_of_running h.record hrun ⟨rfl, rfl, rfl, rfl, rfl⟩, ?_, fun k hk => ?_⟩
  · exact Nat.le_trans htop (by decide)
  · exact h.returns k (Nat.lt_of_lt_of_le hk (Nat.sub_le _ _))

/-- A skip, taken or not. -/
theorem inv_skipIf (h : Inv s) (hrun : s.run = .running) (hpc : s.pc.toNat ≤ 0x1000) (c : Bool) : Inv (s.skipIf c) := by
  rw [s.skipIf_eq c]
  cases c with
  | false => exact inv_setPc h hrun h.pcBound
  | true =>
    have hskip : (s.pc + 2).toNat ≤ 0x10FE := by
      rw [BitVec.toNat_add]
      exact Nat.le_trans (Nat.mod_le _ _) (Nat.le_trans (Nat.add_le_add_right hpc 2) (by decide))
    exact inv_setPc h hrun hskip

theorem inv_keySkip (h : Inv s) (hrun : s.run = .running) (hpc : s.pc.toNat ≤ 0x1000) {v : Byte} (hv : ¬15 < v.toNat)
    (i : Instr) (c : Bool → Bool) : Inv (keySkip i v c s) := by
  rw [keySkip_eq_skipIf i c hv]
  exact inv_skipIf h hrun hpc _

/-- The largest target of `Bnnn`, under both values of BNNN_MODE (R154). -/
theorem toNat_bnnnTarget_le (mode : Config.BnnnMode) (nnn : Addr12) (v : Byte) : (bnnnTarget mode nnn v).toNat ≤ 0x10FE := by
  have hnnn := nnn.isLt
  have hv := v.isLt
  cases mode with
  | full =>
    rw [bnnnTarget_full_toNat]
    omega
  | trunc8 =>
    rw [bnnnTarget_trunc8_toNat]
    omega

/-- The wait for a key goes back to the opcode it was fetched from, or writes a register. -/
theorem inv_of_exec_ldVxK (h : Inv s) (hrun : s.run = .running) (hlow : 2 ≤ s.pc.toNat) (x : Nibble)
    (hexec : exec (.ldVxK x) s = .next t) : Inv t := by
  cases hkey : s.lowestKey with
  | some k =>
    cases hexec.symm.trans (exec_ldVxK_pressed x hkey)
    exact inv_of_same h rfl ⟨rfl, rfl, rfl, rfl, rfl⟩ rfl rfl rfl
  | none =>
    cases hexec.symm.trans (exec_ldVxK_waits x hkey)
    have hback : (s.pc - 2).toNat = s.pc.toNat - 2 := BitVec.toNat_sub_of_le hlow
    exact inv_setPc h hrun (hback ▸ Nat.le_trans (Nat.sub_le _ _) h.pcBound)

/-- Every instruction keeps the invariant, entered with `pc` two past an address in memory. -/
theorem inv_of_exec (h : Inv s) (hrun : s.run = .running) (hlow : 2 ≤ s.pc.toNat) (hpc : s.pc.toNat ≤ 0x1000)
    (hexec : exec i s = .next t) : Inv t := by
  cases hown : ownFault i s with
  | some f => exact inv_of_ownFault h hown hexec
  | none =>
    cases i
    case ret => exact inv_of_exec_ret h hrun (Nat.pos_of_ne_zero (check_eq_none hown)) hexec
    case sys nnn => cases hexec; exact inv_callTo h hrun hpc (sp_lt_of_ne (check_eq_none hown)) _ nnn
    case call nnn => cases hexec; exact inv_callTo h hrun hpc (sp_lt_of_ne (check_eq_none hown)) _ nnn
    case jp nnn => cases hexec; exact inv_setPc h hrun (Nat.le_trans (toNat_zextAddr_le nnn) (by decide))
    case jpV0 nnn => cases hexec; exact inv_setPc h hrun (toNat_bnnnTarget_le _ nnn _)
    case seImm x nn => cases hexec; exact inv_skipIf h hrun hpc _
    case sneImm x nn => cases hexec; exact inv_skipIf h hrun hpc _
    case seReg x y => cases hexec; exact inv_skipIf h hrun hpc _
    case sneReg x y => cases hexec; exact inv_skipIf h hrun hpc _
    case skp x => cases hexec; exact inv_keySkip h hrun hpc (check_eq_none hown) _ _
    case sknp x => cases hexec; exact inv_keySkip h hrun hpc (check_eq_none hown) _ _
    case ldVxK x => exact inv_of_exec_ldVxK h hrun hlow x hexec
    all_goals exact inv_of_frame h hown hexec (by simp [mayWrite])

end Instructions

/-- Settles O14: a step raises a fault that the record allows, or executes an instruction two past an address in memory. -/
theorem stepKeepsInv : Obligations.StepKeepsInv := by
  intro s t h hstep
  rcases step_cases s with ⟨-, hs⟩ | ⟨-, -, hs⟩ | ⟨hrun, hpc, e, -, hs⟩ | ⟨hrun, hpc, i, -, hs⟩
  · cases hstep.symm.trans hs
    exact h
  · cases hstep.symm.trans hs
    exact inv_raise h .memoryOutOfRange _ (.inr ⟨rfl, rfl⟩)
  all_goals
    have hadv := toNat_advance_pc hpc
    have hbound : s.advance.pc.toNat ≤ 0x10FE := by omega
    have hinv : Inv s.advance := inv_setPc h hrun hbound
  · cases hstep.symm.trans hs
    exact inv_raise hinv .illegalInstruction 0 (.inl (BitVec.sub_add_cancel s.advance.pc 2).symm)
  · exact inv_of_exec hinv hrun (by omega) (by omega) (hs.symm.trans hstep)

/-- Settles O15: memory, the record and the stack are empty. -/
theorem resetHasInv : Obligations.ResetHasInv where
  memory := Memory.wf_nil
  record := ⟨rfl, rfl, rfl, rfl⟩
  pcBound := by decide
  returns := fun _ hk => absurd hk (Nat.not_lt_zero _)

end Sys2Proof
end

section
/-! SUPPORT. Construct (70_reset_and_hazards.md R280 to R285): the reset state it starts from, the program it loads, and the
LoadError it records. -/

namespace Sys2Proof

open Sys2Proof.Machine

/-- The reset state with the parameters and the position in the random source of another (log entries 1 and 2). -/
def resetKeeping (s : State) : State := { State.reset with params := s.params, draws := s.draws }

theorem construct_of_badLength (s : State) {rom : List Byte} (h : rom.length = 0 ∨ 3584 < rom.length) :
    s.construct rom = (resetKeeping s).raise .loadError 0x200 0 0 := if_pos h

theorem construct_of_goodLength (s : State) {rom : List Byte} (h : ¬(rom.length = 0 ∨ 3584 < rom.length)) :
    s.construct rom = (resetKeeping s).setMem (memWriteList [] 0x200 rom) := if_neg h

/-- A program that loads ends within the address space (R280). -/
theorem program_end_le {rom : List Byte} (h : ¬(rom.length = 0 ∨ 3584 < rom.length)) :
    0x200 + rom.length ≤ Config.memSize := by
  simp only [Config.memSize]
  omega

/-- Outside FONT, which is 80 bytes from 0x050 on, memory reads zero after reset (R281). -/
theorem unlisted_eq (a : Nat) : unlisted a = if 0x050 ≤ a ∧ a < 0x0A0 then font.getD (a - 0x050) 0 else 0 := by
  have hfont : font.length = 80 := rfl
  by_cases hlow : 0x050 ≤ a
  · by_cases hhigh : a < 0x0A0
    · exact (if_pos hlow).trans (if_pos ⟨hlow, hhigh⟩).symm
    · have hpast : font.length ≤ a - 0x050 := by omega
      rw [if_neg (fun h => hhigh h.2)]
      exact (if_pos hlow).trans (List.getD_eq_default _ _ hpast)
  · rw [if_neg (fun h => hlow h.1)]
    exact if_neg hlow

/-- Settles O18: every field of the reset state, and what its empty memory reads as. -/
theorem resetValues : Obligations.ResetValues := by
  refine ⟨rfl, fun r => ?_, rfl, rfl, rfl, rfl, fun k => ?_, fun k => ?_, fbGet_fbClear, rfl, rfl, rfl, rfl, rfl, rfl,
    unlisted_eq⟩
  · exact Vector.getElem_replicate _
  · exact Vector.getElem_replicate _
  · exact Vector.getElem_replicate _

/-- Settles O19: only memory is not at its reset value, and the program's bytes read back where they were written. -/
theorem constructLoadsTheProgram : Obligations.ConstructLoadsTheProgram := by
  intro s rom hmin hmax
  have hlen : ¬(rom.length = 0 ∨ 3584 < rom.length) := by omega
  rw [construct_of_goodLength s hlen]
  refine ⟨unchanged_setMem (resetKeeping s) _, fun a => ?_⟩
  show memRead (memWriteList [] 0x200 rom) a = _
  split
  · next h =>
    obtain ⟨hlow, hhigh⟩ := h
    have hread := memRead_memWriteList_in (k := a - 0x200) Memory.wf_nil (program_end_le hlen) (by omega)
    rwa [Nat.add_sub_cancel' hlow] at hread
  · next h => exact memRead_memWriteList_out (by omega)

/-- Settles O20: LoadError is raised on the reset state. -/
theorem constructRefusesBadLength : Obligations.ConstructRefusesBadLength := by
  intro s rom h
  rw [construct_of_badLength s h]
  exact faultTaken_raise (resetKeeping s) .loadError 0x200 0 0

end Sys2Proof
end

section
/-! SUPPORT. The invariant under the host's operations (40_engine_cycle.md R112), and the canonical form as a form: equal reads are
equal data (20_memory.md). -/

namespace Sys2Proof

open Sys2Proof.Machine

theorem inv_deliverKey {s : State} (h : Inv s) (k : Nibble) (p : Bool) : Inv (s.deliverKey k p) := by
  cases hrun : s.run with
  | faulted => rwa [deliverKey_of_faulted hrun]
  | running =>
    rw [deliverKey_of_running hrun]
    exact inv_of_same h rfl ⟨rfl, rfl, rfl, rfl, rfl⟩ rfl rfl rfl

theorem inv_clearRedraw {s : State} (h : Inv s) : Inv s.clearRedraw := by
  cases hrun : s.run with
  | faulted => rwa [clearRedraw_of_faulted hrun]
  | running =>
    rw [clearRedraw_of_running hrun]
    exact inv_of_same h rfl ⟨rfl, rfl, rfl, rfl, rfl⟩ rfl rfl rfl

theorem inv_tickTimers {s : State} (h : Inv s) : Inv s.tickTimers := by
  cases hrun : s.run with
  | faulted => rwa [tickTimers_of_faulted hrun]
  | running =>
    rw [tickTimers_of_running hrun]
    exact inv_of_same h rfl ⟨rfl, rfl, rfl, rfl, rfl⟩ rfl rfl rfl

/-- The parameters and the random source are outside the invariant. -/
theorem inv_resetKeeping (s : State) : Inv (resetKeeping s) :=
  inv_of_same resetHasInv rfl ⟨rfl, rfl, rfl, rfl, rfl⟩ rfl rfl rfl

theorem inv_construct (s : State) (rom : List Byte) : Inv (s.construct rom) := by
  by_cases hlen : rom.length = 0 ∨ 3584 < rom.length
  · rw [construct_of_badLength s hlen]
    exact inv_raise (inv_resetKeeping s) .loadError 0 (.inr ⟨rfl, rfl⟩)
  · rw [construct_of_goodLength s hlen]
    obtain ⟨-, hrecord, hpc, hreturns⟩ := inv_resetKeeping s
    exact ⟨memWriteList_wf Memory.wf_nil (program_end_le hlen), hrecord, hpc, hreturns⟩

/-- Settles O16: a cycle is its stages one after the other (O13), each of which keeps the invariant or is not made. -/
theorem hostOperationsKeepInv : Obligations.HostOperationsKeepInv := by
  refine ⟨fun q s t h ht => ?_, inv_construct⟩
  obtain ⟨horder, hoverride⟩ := requestOrderInACycle
  cases hq : q.construct with
  | some rom =>
    cases ht.symm.trans (hoverride s q rom hq)
    exact inv_construct s rom
  | none =>
    obtain ⟨a, b, c, d, hkey, hnokey, hclear, hnoclear, hstep, hnostep, htick, hnotick, hd⟩ := horder s q hq
    cases ht.symm.trans hd
    have ha : Inv a := by
      cases hk : q.key with
      | none => exact hnokey hk ▸ h
      | some kp => exact hkey kp.1 kp.2 hk ▸ inv_deliverKey h kp.1 kp.2
    have hb : Inv b := by
      cases hcl : q.clearRedraw with
      | false => exact hnoclear hcl ▸ ha
      | true => exact hclear hcl ▸ inv_clearRedraw ha
    have hc : Inv c := by
      cases hst : q.step with
      | false => exact hnostep hst ▸ hb
      | true => exact stepKeepsInv b c hb (hstep hst)
    cases htk : q.tick with
    | false => exact hnotick htk ▸ hc
    | true => exact htick htk ▸ inv_tickTimers hc

section Canonical
variable {c : Host.Cell} {m m' : Memory}

/-- Every address listed after a cell is above the cell's. -/
theorem lt_of_mem_tail (h : Memory.wf (c :: m)) : ∀ d ∈ m, c.1 < d.1 := (List.pairwise_cons.mp h.1).1

/-- A listed byte differs from what its address would read as unlisted. -/
theorem memRead_head_ne_unlisted (h : Memory.wf (c :: m)) : memRead (c :: m) c.1 ≠ unlisted c.1 := by
  simpa [memRead] using (h.2 c List.mem_cons_self).2

/-- The first listed address of a memory is the lowest that reads as no unlisted one, so no other memory that reads the same
lists only addresses above it. -/
theorem not_forall_lt_of_reads_same (h : Memory.wf (c :: m)) (hread : ∀ a, memRead (c :: m) a = memRead m' a) :
    ¬∀ d ∈ m', c.1 < d.1 := fun hlt =>
  memRead_head_ne_unlisted h ((hread c.1).trans (memRead_of_lt_keys hlt))

theorem first_address_le {d : Host.Cell} (h : Memory.wf (c :: m)) (h' : Memory.wf (d :: m'))
    (hread : ∀ a, memRead (c :: m) a = memRead (d :: m') a) : d.1 ≤ c.1 := by
  by_contra hlt
  refine not_forall_lt_of_reads_same h hread fun e he => ?_
  rcases List.mem_cons.mp he with rfl | he
  · omega
  · have := lt_of_mem_tail h' e he
    omega

/-- Where two memories with the same first cell read the same, their tails do. -/
theorem tails_read_same (h : Memory.wf (c :: m)) (h' : Memory.wf (c :: m'))
    (hread : ∀ a, memRead (c :: m) a = memRead (c :: m') a) (a : Nat) : memRead m a = memRead m' a := by
  by_cases ha : c.1 = a
  · subst ha
    rw [memRead_of_lt_keys (lt_of_mem_tail h), memRead_of_lt_keys (lt_of_mem_tail h')]
  · simpa [memRead, ha] using hread a

end Canonical

/-- Settles O17, by induction on one of the lists: the first cells are the same, and the rests read the same. -/
theorem canonicalMemoryIsUnique : Obligations.CanonicalMemoryIsUnique := by
  intro m
  induction m with
  | nil =>
    intro m' _ h' hread
    cases m' with
    | nil => rfl
    | cons d m' => exact absurd nofun (not_forall_lt_of_reads_same h' fun a => (hread a).symm)
  | cons c m ih =>
    intro m' h h' hread
    cases m' with
    | nil => exact absurd nofun (not_forall_lt_of_reads_same h hread)
    | cons d m' =>
      have haddr : d.1 = c.1 := Nat.le_antisymm (first_address_le h h' hread)
        (first_address_le h' h fun a => (hread a).symm)
      have hbyte : c.2 = d.2 := by simpa [memRead, haddr] using hread c.1
      obtain rfl : c = d := Prod.ext haddr.symm hbyte
      rw [ih m' (Memory.wf_tail h) (Memory.wf_tail h') (tails_read_same h h' hread)]

end Sys2Proof
end

section
/-! SUPPORT. Drawing (41_display.md R134, R135): what the rows of a sprite do to the pixels of the screen, in the terms of the
sprite's cover, and the same draw made twice. -/

namespace Sys2Proof

open Sys2Proof.Machine

section Sprite
variable {s : State} {cx cy n px py : Nat}

/-- A pixel of the screen under a set bit is flipped. -/
theorem fbGet_drawRows_of_covers (hn : n ≤ 32) (hpx : px < 64) (hpy : py < 32) (h : SpriteCovers s cx cy n px py) :
    fbGet (drawRows s.mem s.I.toNat cx cy n (s.fb, false)).1 px py = !s.pixel px py := by
  obtain ⟨r, c, hr, hc, hbit, hcol, hrow⟩ := h
  exact drawRows_covered hn hr hc hbit (by omega) (by omega)

/-- A pixel of the screen under no set bit is left. -/
theorem fbGet_drawRows_of_not_covers (hpx : px < 64) (hpy : py < 32) (h : ¬SpriteCovers s cx cy n px py) :
    fbGet (drawRows s.mem s.I.toNat cx cy n (s.fb, false)).1 px py = s.pixel px py := by
  refine drawRows_uncovered fun r c hr hc hbit hat => h ⟨r, c, hr, hc, hbit, ?_⟩
  omega

/-- The hit is a collision on the screen: a set pixel under a set bit. -/
theorem drawRows_hit_iff_covers (hn : n ≤ 32) : (drawRows s.mem s.I.toNat cx cy n (s.fb, false)).2 = true ↔
    ∃ px py, px < 64 ∧ py < 32 ∧ SpriteCovers s cx cy n px py ∧ s.pixel px py = true := by
  rw [drawRows_hit hn]
  constructor
  · rintro (hfalse | ⟨r, c, hr, hc, hbit, hset⟩)
    · cases hfalse
    · exact ⟨(cx + c) % 64, (cy + r) % 32, Nat.mod_lt _ (by decide), Nat.mod_lt _ (by decide), ⟨r, c, hr, hc, hbit, rfl, rfl⟩,
        (fbGet_mod s.fb _ _).trans hset⟩
  · rintro ⟨_, _, -, -, ⟨r, c, hr, hc, hbit, rfl, rfl⟩, hset⟩
    exact .inr ⟨r, c, hr, hc, hbit, (fbGet_mod s.fb _ _).symm.trans hset⟩

end Sprite

theorem readReg_writeFlag_vf (s : State) (f : Byte) : (s.writeFlag f).readReg 0xF = f := s.readReg_writeReg_self vfIndex f

/-- Settles O28: the rows flip the pixels they cover, and the hit they answer is written to `VF`. -/
theorem drwFlipsTheSpritePixels : Obligations.DrwFlipsTheSpritePixels := by
  intro x y n s hrange
  have hn : n.toNat ≤ 32 := by have := n.isLt; omega
  refine ⟨_, execDrw_inRange hrange, fun px py hpx hpy => ⟨fbGet_drawRows_of_covers hn hpx hpy,
    fbGet_drawRows_of_not_covers hpx hpy⟩, fun hhit => ?_, fun hmiss => ?_, rfl,
    fun r hr => regsUnchanged_writeReg _ 0xF _ r hr, unchanged_setFb_writeFlag s _ _⟩
  · rw [readReg_writeFlag_vf, (drawRows_hit_iff_covers hn).mpr hhit]
    rfl
  · rw [readReg_writeFlag_vf, Bool.eq_false_iff.mpr (mt (drawRows_hit_iff_covers hn).mp hmiss)]
    rfl

/-- A sprite covers the same pixels from two states with the same memory and the same `I`. -/
theorem spriteCovers_congr {s t : State} (hmem : ∀ a, t.readMem a = s.readMem a) (hI : t.I = s.I) (cx cy n px py : Nat) :
    SpriteCovers t cx cy n px py ↔ SpriteCovers s cx cy n px py := by
  simp only [SpriteCovers, hmem, hI]

/-- Pixels agree everywhere where they agree on the screen, since reads wrap (R130). -/
theorem pixel_eq_of_screen {s t : State} (h : ∀ px py, px < 64 → py < 32 → t.pixel px py = s.pixel px py) (px py : Nat) :
    t.pixel px py = s.pixel px py := by
  have hmod := h (px % 64) (py % 32) (Nat.mod_lt _ (by decide)) (Nat.mod_lt _ (by decide))
  exact (fbGet_mod t.fb px py).symm.trans (hmod.trans (fbGet_mod s.fb px py))

/-- Settles O29: the second draw covers the pixels of the first (its memory, `I` and coordinates are the same), so it flips them
back, and it collides where the first one set a pixel. -/
theorem drwTwiceRestoresThePixels : Obligations.DrwTwiceRestoresThePixels := by
  intro x y n s t hx hy hrange hexec
  obtain ⟨t', ht', hpix, -, -, -, hregs, hframe⟩ := drwFlipsTheSpritePixels x y n s hrange
  cases hexec.symm.trans ht'
  have hI : t.I = s.I := hframe .index (by simp)
  have hcov := spriteCovers_congr (hframe .mem (by simp)) hI
  obtain ⟨u, hu, hpix', hhit, hmiss, -⟩ := drwFlipsTheSpritePixels x y n t (by rwa [hI])
  simp only [hregs x (by simpa using hx), hregs y (by simpa using hy), hcov] at hpix' hhit hmiss
  refine ⟨u, hu, pixel_eq_of_screen fun px py hpx hpy => ?_, fun hvf => ?_, ?_⟩
  · obtain ⟨hflip, hkeep⟩ := hpix px py hpx hpy
    obtain ⟨hflip', hkeep'⟩ := hpix' px py hpx hpy
    by_cases hc : SpriteCovers s (s.readReg x).toNat (s.readReg y).toNat n.toNat px py
    · rw [hflip' hc, hflip hc, Bool.not_not]
    · rw [hkeep' hc, hkeep hc]
  · by_contra hnone
    refine absurd (hvf.symm.trans (hmiss ?_)) (by decide)
    rintro ⟨px, py, hpx, hpy, hc, hset⟩
    rw [(hpix px py hpx hpy).1 hc, Bool.not_eq_true'] at hset
    exact hnone ⟨px, py, hpx, hpy, hc, hset⟩
  · rintro ⟨px, py, hpx, hpy, hc, hclear⟩
    refine hhit ⟨px, py, hpx, hpy, hc, ?_⟩
    rw [(hpix px py hpx hpy).1 hc, hclear]
    rfl

end Sys2Proof
end

section
/-! SUPPORT. The control transfers (42_control_flow.md R150 to R154): calls with room and on a full stack, returns, and jumps. -/

namespace Sys2Proof

open Sys2Proof.Machine

/-- CALL and SYS are the one call (R151, R153). -/
theorem exec_of_call_or_sys {nnn : Addr12} {i : Instr} (h : i = .call nnn ∨ i = .sys nnn) (s : State) :
    exec i s = .next (callTo i nnn s) := by
  rcases h with rfl | rfl
  · exact exec_call nnn s
  · exact exec_sys nnn s

/-- Settles O30: on either side of the stack's depth. -/
theorem callAndSysPush : Obligations.CallAndSysPush := by
  intro nnn i s hi
  have hexec := exec_of_call_or_sys hi s
  refine ⟨fun h => ?_, fun h => ?_⟩
  · rw [callTo_room i nnn h] at hexec
    exact ⟨_, hexec, zextAddr_toNat nnn, rfl, Vector.getElem_set_self h, fun k hk => Vector.getElem_set_ne h k.isLt hk.symm,
      unchanged_pc_stack_sp s _ _ _⟩
  · rw [callTo_full i nnn h] at hexec
    exact ⟨_, hexec, faultTaken_raise s .stackOverflow (s.pc - 2) (encode i) 16⟩

/-- Settles O31: on either side of the empty stack. -/
theorem retPops : Obligations.RetPops := by
  refine fun s => ⟨fun h => ?_, fun h => ?_⟩
  · exact ⟨_, execRet_entry h, rfl, rfl, unchanged_pc_sp s _ _⟩
  · exact ⟨_, execRet_empty h, faultTaken_raise s .stackUnderflow (s.pc - 2) 0x00EE 0⟩

theorem unchanged_stack (s : State) (k : Vector Word Config.stackDepth) : Unchanged [.stack] s { s with stack := k } := by
  have hfault : SameFault s { s with stack := k } := ⟨rfl, rfl, rfl, rfl, rfl⟩
  apply unchanged_of_fields <;> simp [hfault]

/-- A return pops what the call before it pushed: `pc` and the depth are back, and the slot stays written. -/
theorem execRet_callTo (i : Instr) (nnn : Addr12) {s : State} (h : s.sp.val < 16) :
    execRet (callTo i nnn s) = .next { s with stack := s.stack.set s.sp.val s.pc h } := by
  rw [callTo_room i nnn h, execRet_entry (Nat.succ_pos _)]
  simp

/-- Settles O32: only the slot the call wrote is left changed. -/
theorem returnUndoesCall : Obligations.ReturnUndoesCall := by
  intro nnn i s t hi h hexec
  cases hexec.symm.trans (exec_of_call_or_sys hi s)
  exact ⟨_, execRet_callTo i nnn h, rfl, rfl, fun k hk => Vector.getElem_set_ne h k.isLt hk.symm, unchanged_stack s _⟩

/-- Settles O33: the mask keeps `op`, and the target is the address widened. -/
theorem jpJumps : Obligations.JpJumps := by
  refine ⟨fun w hw => decodeWord_jp (fieldOp_of_match w _ _ hw rfl), fun nnn s => ?_⟩
  exact ⟨_, exec_jp nnn s, zextAddr_toNat nnn, unchanged_setPc s _⟩

/-- Settles O34: the mask keeps `op`, and the target is the sum under the one value of BNNN_MODE and its low byte under the
other. -/
theorem jpV0Jumps : Obligations.JpV0Jumps := by
  refine ⟨fun w hw => decodeWord_jpV0 (fieldOp_of_match w _ _ hw rfl), fun nnn s => ?_⟩
  refine ⟨_, exec_jpV0 nnn s, fun hmode => ?_, fun hmode => ?_, unchanged_setPc s _⟩
  · rw [State.setPc_pc, hmode, bnnnTarget_full_toNat]
  · rw [State.setPc_pc, hmode, bnnnTarget_trunc8_toNat]

end Sys2Proof
end

section
/-! SUPPORT. The skips on two registers (43_skips.md R173, R174) and the illegal words beside them. -/

namespace Sys2Proof

open Sys2Proof.Machine

/-- The low digit under its mask is the field `n`. -/
theorem fieldN_ne_zero_of_and_ne_zero {w : Word} (h : w &&& 0x000F#16 ≠ 0) : fieldN w ≠ 0#4 := by
  intro hn
  refine h (BitVec.eq_of_toNat_eq ?_)
  have hmod : w.toNat % 16 = 0 := (toNat_fieldN w).symm.trans (congrArg BitVec.toNat hn)
  exact (BitVec.toNat_and w _).trans ((Nat.and_two_pow_sub_one_eq_mod w.toNat 4).trans hmod)

/-- Settles O36: the skips compare bytes by their numbers, and a word of the two groups with another last digit is illegal (O5),
which a step takes as its fault (O9). -/
theorem registerSkips : Obligations.RegisterSkips := by
  have hse (x y : Nibble) (s : State) :=
    completes_of_exec_eq_skipIf (p := (s.readReg x).toNat = (s.readReg y).toNat) (exec_seReg x y s)
      (by rw [beq_iff_eq, BitVec.toNat_inj])
  have hsne (x y : Nibble) (s : State) :=
    completes_of_exec_eq_skipIf (p := (s.readReg x).toNat ≠ (s.readReg y).toNat) (exec_sneReg x y s)
      (by rw [bne_iff_ne, ne_eq, ne_eq, BitVec.toNat_inj])
  refine ⟨fun w hw => ?_, fun w hw => ?_, fun w hop hn => ?_, fun x y s => ⟨hse x y s, hsne x y s, ?_, ?_⟩⟩
  · exact decodeWord_seReg (fieldOp_of_match w _ _ hw rfl) (fieldN_of_match w _ _ hw rfl)
  · exact decodeWord_sneReg (fieldOp_of_match w _ _ hw rfl) (fieldN_of_match w _ _ hw rfl)
  · have hgroup := hop.imp (fun h => fieldOp_of_match w _ _ h rfl) (fun h => fieldOp_of_match w _ _ h rfl)
    have hill : decodeWord w = .error (.illegal w) :=
      (illegalWordsByGroup w).mpr (.inl ⟨hgroup, fieldN_ne_zero_of_and_ne_zero hn⟩)
    refine ⟨hill, fun s hrun hpc hw => ?_⟩
    obtain ⟨t, ht, -, hfaulted, hcode, -, hopcode, -⟩ := illegalOpcodeFaults s w hrun hpc hw.symm hill
    exact ⟨t, ht, hfaulted, hcode, hopcode⟩
  · obtain ⟨t, ht, hpc, -⟩ := hse x x s
    exact ⟨t, ht, hpc.trans (if_pos rfl)⟩
  · obtain ⟨t, ht, hpc, -⟩ := hsne x x s
    exact ⟨t, ht, hpc.trans (if_neg (not_not_intro rfl))⟩

end Sys2Proof
end

section
/-! SUPPORT. The bitwise operations and the random byte (44_alu.md R185 to R187, R193), and the index register's arithmetic
(45_index_memory.md R211, R212). -/

namespace Sys2Proof

open Sys2Proof.Machine

/-- Settles O39: each meaning is one written register, whose bits are those of the operation. -/
theorem bitwiseOperations : Obligations.BitwiseOperations := by
  refine fun x y s => ⟨?_, ?_, ?_⟩
  · exact completes_of_exec_eq_writeReg
      (fun v => ∀ j, j < 8 → v.getLsbD j = ((s.readReg x).getLsbD j || (s.readReg y).getLsbD j))
      (exec_orReg x y s) (fun _ _ => BitVec.getLsbD_or)
  · exact completes_of_exec_eq_writeReg
      (fun v => ∀ j, j < 8 → v.getLsbD j = ((s.readReg x).getLsbD j && (s.readReg y).getLsbD j))
      (exec_andReg x y s) (fun _ _ => BitVec.getLsbD_and)
  · exact completes_of_exec_eq_writeReg
      (fun v => ∀ j, j < 8 → v.getLsbD j = ((s.readReg x).getLsbD j ^^ (s.readReg y).getLsbD j))
      (exec_xorReg x y s) (fun _ _ => BitVec.getLsbD_xor)

/-- A byte under a mask has no bit outside the mask. -/
theorem and_and_not_eq_zero (b m : Byte) : b &&& m &&& ~~~m = 0 := by
  rw [BitVec.and_assoc, BitVec.and_not_self]
  exact BitVec.and_zero

/-- Settles O44: the register written holds the byte at the counter under the mask, and the counter moves by one. -/
theorem randomByteMasked : Obligations.RandomByteMasked := by
  refine ⟨fun w hw => decodeWord_rnd (fieldOp_of_match w _ _ hw rfl), fun x nn s => ?_⟩
  have hread := s.readReg_writeReg_self x (Config.rndByte s.draws &&& nn)
  exact ⟨_, exec_rnd x nn s, hread, (congrArg (· &&& ~~~nn) hread).trans (and_and_not_eq_zero _ nn), rfl,
    regsUnchanged_writeReg s x _, unchanged_writeReg_consumeDraw s x _⟩

/-- Settles O46: each meaning is one replaced index register. -/
theorem indexArithmetic : Obligations.IndexArithmetic := by
  refine fun x s => ⟨⟨_, exec_addI x s, ?_, unchanged_setI s _⟩,
    ⟨_, exec_ldF x s, fun hbase => ?_, fun hbase => ?_, unchanged_setI s _⟩⟩
  · rw [State.setI_I, BitVec.toNat_add, zextByte_toNat]
  · rw [State.setI_I, hbase, glyphAddr_toNat]
    rfl
  · rw [State.setI_I, hbase, glyphAddr_toNat]
    exact Nat.zero_add _

end Sys2Proof
end

section
/-! SUPPORT. Stores and loads from `I` on (45_index_memory.md R213 to R215): the bytes stored, the registers loaded, and the round
trip. -/

namespace Sys2Proof

open Sys2Proof.Machine

/-- Register `r`, as the number of its place in the list that Fx55 stores, is register `r` again. -/
theorem regList_getElem_toNat (s : State) {k : Nat} (r : Nibble) (h : r.toNat < (s.regList k).length) :
    (s.regList k)[r.toNat] = s.readReg r := by
  rw [s.regList_getElem h]
  simp

/-- Settles O47: the three digits are written in memory, so each reads back at its place and no other byte changes. -/
theorem storeDecimalDigits : Obligations.StoreDecimalDigits := by
  intro x s hwf hI
  have hspace : s.I.toNat + (bcdDigits (s.readReg x)).length ≤ Config.memSize := Nat.lt_succ_of_le hI
  have hv : (s.readReg x).toNat < 256 := (s.readReg x).isLt
  have hread (k : Nat) (hk : k < 3) := memRead_memWriteList_in (bs := bcdDigits (s.readReg x)) (k := k) hwf hspace hk
  refine ⟨_, execLdB_inRange hI, ?_, ?_, ?_, fun a ha => memRead_memWriteList_out ha, unchanged_setMem s _⟩
  · refine (congrArg BitVec.toNat (hread 0 (by decide))).trans ((BitVec.toNat_ofNat _ 8).trans ?_)
    omega
  · refine (congrArg BitVec.toNat (hread 1 (by decide))).trans ((BitVec.toNat_ofNat _ 8).trans ?_)
    omega
  · refine (congrArg BitVec.toNat (hread 2 (by decide))).trans ((BitVec.toNat_ofNat _ 8).trans ?_)
    omega

/-- Settles O48: the registers are written in memory in their order, so each reads back at its place. -/
theorem storeRegisters : Obligations.StoreRegisters := by
  intro x s hwf hI
  have hlen := s.regList_length (x.toNat + 1)
  have hspace : s.I.toNat + (s.regList (x.toNat + 1)).length ≤ 0x1000 := by omega
  refine ⟨_, execLdMemVx_inRange hI, fun r hr => ?_, fun a ha => memRead_memWriteList_out (by omega), unchanged_setMem s _⟩
  have hlt : r.toNat < (s.regList (x.toNat + 1)).length := by omega
  exact (memRead_memWriteList_in hwf hspace hlt).trans (regList_getElem_toNat s r hlt)

/-- Settles O49, from what the load leaves in each register. -/
theorem loadRegisters : Obligations.LoadRegisters := by
  intro x s hI
  refine ⟨_, execLdVxMem_inRange hI, fun r => ?_, unchanged_setV s _⟩
  have hx : x.toNat + 1 ≤ 16 := x.isLt
  exact (loadRegs_getElem s.mem s.I.toNat s.V hx r).trans (if_congr Nat.lt_succ_iff rfl rfl)

/-- Settles O50: the load (O49) reads what the store (O48) left, at the same `I`. -/
theorem storeThenLoadRestoresRegisters : Obligations.StoreThenLoadRestoresRegisters := by
  intro x s t u hwf hI hexec humem huI
  obtain ⟨t', ht', hstored, -, hframe⟩ := storeRegisters x s hwf hI
  cases hexec.symm.trans ht'
  have huI' : u.I = s.I := huI.trans (hframe .index (by simp))
  obtain ⟨v, hv, hloaded, -⟩ := loadRegisters x u (by rwa [huI'])
  refine ⟨v, hv, fun r hr => ?_⟩
  rw [hloaded r, if_pos hr, State.readMem, humem, huI']
  exact hstored r hr

end Sys2Proof
end

section
/-! SUPPORT. The keypad's instructions (46_keypad_timers.md R230, R231, R233). -/

namespace Sys2Proof

open Sys2Proof.Machine

/-- A byte that is a key's number, cut to four bits, is the key. -/
theorem setWidth_eq_of_toNat_eq {v : Byte} {k : Nibble} (h : v.toNat = k.toNat) : v.setWidth 4 = k := by
  apply BitVec.eq_of_toNat_eq
  rw [BitVec.toNat_setWidth, h]
  exact Nat.mod_eq_of_lt k.isLt

/-- An instruction that answers a key test in range moves `pc` by the key's state and changes nothing else. -/
theorem completes_of_exec_eq_keySkip {i : Instr} {s : State} {v : Byte} {k : Nibble} {c : Bool → Bool} {p : Prop}
    [Decidable p] (hexec : exec i s = .next (keySkip i v c s)) (hv : v.toNat = k.toNat) (hcond : c (s.keyDown k) = true ↔ p) :
    Completes i s (fun t => t.pc = (if p then s.pc + 2 else s.pc) ∧ Unchanged [.pc] s t) := by
  have hk : k.toNat < 16 := k.isLt
  rw [keySkip_eq_skipIf i c (by omega), setWidth_eq_of_toNat_eq hv] at hexec
  exact completes_of_exec_eq_skipIf hexec hcond

/-- Settles O51: on either side of the check of the index. -/
theorem keySkips : Obligations.KeySkips := by
  refine fun x k s => ⟨fun hk => ⟨?_, ?_⟩, fun hbig i hi => ?_⟩
  · exact completes_of_exec_eq_keySkip (exec_skp x s) hk Iff.rfl
  · exact completes_of_exec_eq_keySkip (exec_sknp x s) hk (iff_of_eq (Bool.not_eq_true' _))
  · have hown : ownFault i s = some (.keyIndexOutOfRange, (s.readReg x).setWidth 16) := by
      rcases hi with rfl | rfl <;> exact if_pos hbig
    exact execFaultIsPrecise i s _ _ hown

/-- The key found is the one pressed key with none pressed below it (R233). -/
theorem lowestKey_eq_some_of_lowest {s : State} {k : Nibble} (hk : s.keyDown k = true)
    (hlow : ∀ j : Nibble, j.toNat < k.toNat → s.keyDown j = false) : s.lowestKey = some k := by
  cases hkey : s.lowestKey with
  | none => exact absurd (hk.symm.trans (State.lowestKey_eq_none hkey k)) (by decide)
  | some j =>
    obtain ⟨hj, hjlow⟩ := State.lowestKey_eq_some hkey
    have hnotlt : ¬j.toNat < k.toNat := fun h => absurd (hj.symm.trans (hlow j h)) (by decide)
    have hnotgt : ¬k.toNat < j.toNat := fun h => absurd (hk.symm.trans (hjlow k h)) (by decide)
    exact congrArg some (BitVec.eq_of_toNat_eq (by omega))

theorem lowestKey_eq_none_of_forall {s : State} (h : ∀ j, s.keyDown j = false) : s.lowestKey = none := by
  cases hkey : s.lowestKey with
  | none => rfl
  | some j => exact absurd ((State.lowestKey_eq_some hkey).1.symm.trans (h j)) (by decide)

/-- Settles O52: with a lowest pressed key one register is written, with none `pc` is. -/
theorem keyWait : Obligations.KeyWait := by
  refine fun x k s => ⟨fun hk hlow => ?_, fun hnone => ?_⟩
  · have hnum : (k.setWidth 8).toNat = k.toNat := by
      rw [BitVec.toNat_setWidth]
      exact Nat.mod_eq_of_lt (Nat.lt_trans k.isLt (by decide))
    exact completes_of_exec_eq_writeReg (fun v => v.toNat = k.toNat)
      (exec_ldVxK_pressed x (lowestKey_eq_some_of_lowest hk hlow)) hnum
  · exact ⟨_, exec_ldVxK_waits x (lowestKey_eq_none_of_forall hnone), rfl, unchanged_setPc s _⟩

end Sys2Proof
end
